-- ==== Sys2Proof/Word.lean ====
section
/-! DEFINITION. The word types of the ports: 32-bit packet words, payload bytes, 64-bit timestamps and data
(spec/30_encoding.md R70, spec/00_scope.md R10, R12). -/

namespace Sys2Proof

/-- A word of a command or response packet (R70). -/
abbrev Word := BitVec 32

/-- A payload byte. -/
abbrev Byte := BitVec 8

/-- A timestamp, or the data of a READ_REG response (R10, R80). -/
abbrev Dword := BitVec 64

end Sys2Proof
end

