-- ==== Sys2Proof/Config.lean ====
section
/-! DEFINITION. The implementation parameters of spec/00_scope.md R9: named by the spec, given no value by it, and
"configuration, not runtime-mutable". They are held in the state (notes/assumptions/1.md), so every statement about all
states is a statement about all configurations. -/

namespace Sys2Proof

/-- ABORT_TID_POLICY: whether the two abort paths of Receive advance `tid`
(spec/41_validation_and_reassembly.md R122). -/
inductive AbortTidPolicy where
  | advance
  | keep
  deriving DecidableEq, Repr

/-- The parameters of R9. The three interval constants are 32-bit words, as READ_REG shows them
(spec/10_state.md R32); the others are plain numbers. -/
structure Config where
  /-- BITLEN, the width of the transfer ID. -/
  bitlen : Nat
  /-- FRAME_INDEX_MAX, the reserved largest frame index. -/
  frameIndexMax : Nat
  /-- PAYLOAD_MAX, the largest payload of one frame, in bytes. -/
  payloadMax : Nat
  /-- MIN_TRANSFER_INTERVAL, the lower clamp of an interval sample. -/
  minTransferInterval : BitVec 32
  /-- MAX_TRANSFER_INTERVAL, the upper clamp. -/
  maxTransferInterval : BitVec 32
  /-- DEFAULT_TRANSFER_INTERVAL, the reset value of `transfer_interval`. -/
  defaultTransferInterval : BitVec 32
  abortTidPolicy : AbortTidPolicy
  deriving DecidableEq, Repr

/-- CRC_LEN: "2, fixed" (R9). -/
def crcLen : Nat := 2

/-- The constraints on a configuration (R9, spec/92_eei_decisions.md D3). `MAX <= 2^32 - 1` is the width. -/
abbrev Config.Valid (c : Config) : Prop :=
  (2 ≤ c.bitlen ∧ c.bitlen ≤ 8) ∧
  (1 ≤ c.frameIndexMax ∧ c.frameIndexMax ≤ 255) ∧
  (crcLen ≤ c.payloadMax ∧ c.payloadMax ≤ 63) ∧
  c.minTransferInterval.toNat ≤ c.defaultTransferInterval.toNat ∧
  c.defaultTransferInterval.toNat ≤ c.maxTransferInterval.toNat

/-- The reference configuration of spec/92_eei_decisions.md D4, which the spec's test vectors use. It is nobody's chip
(DESIGN CHOICE, notes/assumptions/1.md): `State.reset` needs some configuration, and no statement may rest on this one. -/
def Config.reference : Config where
  bitlen := 3
  frameIndexMax := 62
  payloadMax := 8
  minTransferInterval := 100
  maxTransferInterval := 10000
  defaultTransferInterval := 1000
  abortTidPolicy := .advance

end Sys2Proof
end

