-- ==== Sys2Proof/Syntax.lean ====
section
/-! DEFINITION. The commands of the host port (spec/30_encoding.md R71, R83): one constructor per row of
spec/opcode_table.json. -/

namespace Sys2Proof

/-- The frame operand `F` of ADD_FRAME (spec/10_state.md R38). The fields have the widths of the header's fields
(spec/30_encoding.md R73); `payload_len` is the length of `payload`. That TID, index and length are in range is not part
of the type: a frame that is out of range is ILLEGAL, which is the command's own doing (R85). -/
structure Frame where
  ifaceIndex : BitVec 4
  transferId : BitVec 8
  frameIndex : BitVec 8
  isFirstFrame : Bool
  isLastFrame : Bool
  payload : List Byte
  monotonicTimestamp : BitVec 64
  utcTimestamp : BitVec 64
  deriving DecidableEq, Repr

/-- `F.payload_len` (R38). -/
abbrev Frame.payloadLen (f : Frame) : Nat := f.payload.length

/-- A command. `OP` alone selects it (R71), so a command whose reserved header bits are not zero is that same command,
and ILLEGAL (R86): the reserved bits are operands here, and the meanings read them as the spec's pseudocode does. -/
inductive Instr where
  /-- NOP; `reserved` is header[27:0] (R79). -/
  | nop (reserved : BitVec 28)
  /-- ADD_FRAME (R73 to R75). -/
  | addFrame (frame : Frame)
  /-- CHECK_TIMEOUT; `reserved` is header[27:0] (R76). -/
  | checkTimeout (reserved : BitVec 28) (ts : BitVec 64)
  /-- READ_REG; `reserved` is header[27:8] (R77). -/
  | readReg (reserved : BitVec 20) (reg : BitVec 8)
  /-- RESET; `reserved` is header[27:0] (R78). -/
  | reset (reserved : BitVec 28)
  deriving DecidableEq, Repr

end Sys2Proof
end

