-- ==== Sys2Proof/WellFormed.lean ====
section
/-! DEFINITION. What an encoding can carry, and what the spec calls a legal command whatever the configuration. The
meanings make their own checks (Sys2Proof/Machine/Operands.lean); these are the terms statements are made in. -/

namespace Sys2Proof

/-- An encoding exists for the command: PLEN has six bits (spec/30_encoding.md R72, R73). Every other operand has the
width of its field. -/
abbrev Instr.Encodable : Instr → Prop
  | .addFrame f => f.payloadLen ≤ 63
  | .nop _ | .checkTimeout _ _ | .readReg _ _ | .reset _ => True

/-- The register numbers of spec/10_state.md R32: 0x00 to 0x08 and 0x10 to 0x13. -/
abbrev RegisterNumber (reg : BitVec 8) : Prop :=
  reg.toNat ≤ 0x08 ∨ (0x10 ≤ reg.toNat ∧ reg.toNat ≤ 0x13)

/-- Reserved header bits are zero and READ_REG names a register of the map (R86); a frame fits its length field. -/
abbrev Instr.WellFormed : Instr → Prop
  | .nop r => r = 0
  | .addFrame f => f.payloadLen ≤ 63
  | .checkTimeout r _ => r = 0
  | .readReg r reg => r = 0 ∧ RegisterNumber reg
  | .reset r => r = 0

/-- The frame fields are in range for a configuration (R85). -/
abbrev Frame.InRange (c : Config) (f : Frame) : Prop :=
  f.transferId.toNat < 2 ^ c.bitlen ∧ f.frameIndex.toNat ≤ c.frameIndexMax ∧ f.payloadLen ≤ c.payloadMax

/-- The commands that R84 to R86 do not call ILLEGAL. -/
abbrev Instr.Legal (c : Config) : Instr → Prop
  | .addFrame f => f.InRange c
  | .nop r => r = 0
  | .checkTimeout r _ => r = 0
  | .readReg r reg => r = 0 ∧ RegisterNumber reg
  | .reset r => r = 0

end Sys2Proof
end

