-- ==== Sys2Proof/Decode.lean ====
section
/-! DEFINITION. Packets to commands and back (spec/30_encoding.md). Decoding is total on any list of words and rejects
by name; the encoder is written from the same tables. -/

namespace Sys2Proof

/-- The OP values of R83. -/
def opNop : BitVec 4 := 0x0
def opAddFrame : BitVec 4 := 0x1
def opCheckTimeout : BitVec 4 := 0x2
def opReadReg : BitVec 4 := 0x3
def opReset : BitVec 4 := 0xF

/-- `OP = header[31:28]` (R71). -/
def headerOp (header : Word) : BitVec 4 := header.extractLsb' 28 4

/-- `PLEN = header[25:20]` (R72, R73). -/
def headerPlen (header : Word) : Nat := (header.extractLsb' 20 6).toNat

/-- `ceil(plen / 4)`, the number of payload words (R72). -/
def payloadWords (plen : Nat) : Nat := (plen + 3) / 4

/-- The length of a command packet in words, from the header alone (R72). -/
def packetLength (header : Word) : Nat :=
  if headerOp header = opAddFrame then 5 + payloadWords (headerPlen header)
  else if headerOp header = opCheckTimeout then 3
  else 1

/-- The longest packet of R72: `5 + ceil(63 / 4)` words. -/
def longestPacket : Nat := 21

/-- A word from its four bytes, least significant first (R70). -/
def wordOfBytes (b0 b1 b2 b3 : Byte) : Word := b3 ++ b2 ++ b1 ++ b0

/-- The four bytes of a word, least significant first (R70). -/
def wordBytes (w : Word) : List Byte :=
  [w.extractLsb' 0 8, w.extractLsb' 8 8, w.extractLsb' 16 8, w.extractLsb' 24 8]

/-- The words a byte stream carries (R70); a rest of fewer than four bytes is no word yet. -/
def wordsOfBytes : List Byte → List Word
  | b0 :: b1 :: b2 :: b3 :: rest => wordOfBytes b0 b1 b2 b3 :: wordsOfBytes rest
  | _ => []

/-- A 64-bit value from its two words, low word first (R70). -/
def dwordOfWords (lo hi : Word) : Dword := hi ++ lo

/-- The two words of a 64-bit value, low word first (R70). -/
def dwordWords (d : Dword) : List Word := [d.extractLsb' 0 32, d.extractLsb' 32 32]

/-- The payload of `plen` bytes packed in `ws` (R75); the padding of the last word is dropped. -/
def unpackPayload (plen : Nat) (ws : List Word) : List Byte := (ws.flatMap wordBytes).take plen

/-- The payload words of R75. Padding is ignored by the block; the encoder writes zeros. -/
def packPayload : List Byte → List Word
  | [] => []
  | [b0] => [wordOfBytes b0 0 0 0]
  | [b0, b1] => [wordOfBytes b0 b1 0 0]
  | [b0, b1, b2] => [wordOfBytes b0 b1 b2 0]
  | b0 :: b1 :: b2 :: b3 :: rest => wordOfBytes b0 b1 b2 b3 :: packPayload rest

/-- Why a list of words is no command. -/
inductive DecodeError where
  /-- No word has been presented. -/
  | noHeader
  /-- The header's packet has `need` words (R72) and only `have_` have been presented. -/
  | incomplete (have_ need : Nat)
  /-- OP 0x4 to 0xE (R84): the packet is one word, and the command is ILLEGAL. -/
  | reservedOp (op : BitVec 4)
  deriving DecidableEq, Repr

/-- The frame of an ADD_FRAME packet (R73 to R75): `ops` are the words after the header. -/
def decodeFrame (header : Word) (ops : List Word) : Frame where
  isLastFrame := header.getLsbD 27
  isFirstFrame := header.getLsbD 26
  frameIndex := header.extractLsb' 12 8
  transferId := header.extractLsb' 4 8
  ifaceIndex := header.extractLsb' 0 4
  monotonicTimestamp := dwordOfWords (ops.getD 0 0) (ops.getD 1 0)
  utcTimestamp := dwordOfWords (ops.getD 2 0) (ops.getD 3 0)
  payload := unpackPayload (headerPlen header) (ops.drop 4)

/-- The command of one whole packet: its header and the words after it (R71, R73 to R79). -/
def decodePacket (header : Word) (ops : List Word) : Except DecodeError Instr :=
  if headerOp header = opNop then .ok (.nop (header.extractLsb' 0 28))
  else if headerOp header = opAddFrame then .ok (.addFrame (decodeFrame header ops))
  else if headerOp header = opCheckTimeout then
    .ok (.checkTimeout (header.extractLsb' 0 28) (dwordOfWords (ops.getD 0 0) (ops.getD 1 0)))
  else if headerOp header = opReadReg then .ok (.readReg (header.extractLsb' 8 20) (header.extractLsb' 0 8))
  else if headerOp header = opReset then .ok (.reset (header.extractLsb' 0 28))
  else .error (.reservedOp (headerOp header))

/-- The next command of a stream of words, and the words after its packet. -/
def decode : List Word → Except DecodeError (Instr × List Word)
  | [] => .error .noHeader
  | header :: ws =>
    if ws.length + 1 < packetLength header then
      .error (.incomplete (ws.length + 1) (packetLength header))
    else
      match decodePacket header (ws.take (packetLength header - 1)) with
      | .ok i => .ok (i, ws.drop (packetLength header - 1))
      | .error e => .error e

/-- The OP of a command (R83). -/
def Instr.op : Instr → BitVec 4
  | .nop _ => opNop
  | .addFrame _ => opAddFrame
  | .checkTimeout _ _ => opCheckTimeout
  | .readReg _ _ => opReadReg
  | .reset _ => opReset

/-- The ADD_FRAME header (R73). -/
def encodeFrameHeader (f : Frame) : Word :=
  opAddFrame ++ BitVec.ofBool f.isLastFrame ++ BitVec.ofBool f.isFirstFrame ++ BitVec.ofNat 6 f.payloadLen
    ++ f.frameIndex ++ f.transferId ++ f.ifaceIndex

/-- The packet of a command (R73 to R79). -/
def encode : Instr → List Word
  | .nop r => [opNop ++ r]
  | .addFrame f =>
    encodeFrameHeader f :: (dwordWords f.monotonicTimestamp ++ dwordWords f.utcTimestamp ++ packPayload f.payload)
  | .checkTimeout r ts => (opCheckTimeout ++ r) :: dwordWords ts
  | .readReg r reg => [opReadReg ++ r ++ reg]
  | .reset r => [opReset ++ r]

/-- `n` bytes of a number, least significant first. -/
def bytesOfNat : Nat → Nat → List Byte
  | 0, _ => []
  | n + 1, w => BitVec.ofNat 8 w :: bytesOfNat n (w >>> 8)

/-- A table instruction of `nbits` bits as the host port carries it: its bytes in stream order, every bit above
`nbits` zero, up to the longest packet. -/
def tableWords (nbits w : Nat) : List Word := wordsOfBytes (bytesOfNat (4 * longestPacket) (w % 2 ^ nbits))

/-- The packet of a table instruction: as many of its words as its header asks for (R72). -/
def tablePacket (nbits w : Nat) : List Word :=
  match tableWords nbits w with
  | [] => []
  | header :: ws => (header :: ws).take (packetLength header)

/-- What the decoder reads from a row of spec/opcode_table.json. -/
def decodeTableWord (nbits w : Nat) : Option Instr :=
  match decode (tablePacket nbits w) with
  | .ok (i, _) => some i
  | .error _ => none

end Sys2Proof
end

