-- ==== Sys2Proof/Machine/State.lean ====
section
/-! DEFINITION. The state of the machine: the nine registers of spec/10_state.md, the configuration, and the two ports
of the block (spec/00_scope.md R3) as plain data. -/

namespace Sys2Proof.Machine

/-- The nine state registers, the block's whole architectural state (spec/10_state.md R20, R22 to R30). -/
structure Registers where
  /-- The interface considered authoritative for this transfer (R22). -/
  ifaceIndex : BitVec 4
  /-- The transfer ID being received, or expected next while idle; the low BITLEN bits are significant (R23). -/
  tid : BitVec 8
  /-- The frame index expected next (R24). -/
  nextFrameIndex : BitVec 8
  /-- The byte offset of the next BufWrite (R25). -/
  bufferWritePos : BitVec 16
  /-- The start of the current transfer; 0 means unset (R26). -/
  thisTransferMonotonicTs : BitVec 64
  /-- The start of the preceding completed transfer; 0 means unset (R27). -/
  prevTransferMonotonicTs : BitVec 64
  /-- The UTC timestamp of the first frame (R28). -/
  firstFrameUtcTs : BitVec 64
  /-- The CRC taken from the first frame (R29). -/
  thisTransferCrc : BitVec 16
  /-- The smoothed time between transfer starts, in ticks (R30). -/
  transferInterval : BitVec 32
  deriving DecidableEq, Repr

/-- PRESENT or NONE, the answer of BufAccess and BufCreate (spec/20_memory.md R53, R54). -/
inductive Presence where
  | present
  /-- The answer NONE. -/
  | absent
  deriving DecidableEq, Repr

/-- One answer of the buffer collaborator: what it says to the next transaction, whichever that is. A free draw
(spec/20_memory.md R68): any presence, any signed 32-bit count. BufRemove's acknowledgement carries neither (R52). -/
structure BufAnswer where
  presence : Presence
  written : BitVec 32
  deriving DecidableEq, Repr

/-- The bytes of the session's buffer: offset and byte, offsets strictly rising (spec/20_memory.md R51;
notes/assumptions/5.md). An offset that is not listed has no known byte. -/
abbrev Memory := List Host.Cell

/-- What is seen on the two ports, in the one total order of spec/20_memory.md R63. -/
inductive PortEvent where
  /-- BufRemove (R52). -/
  | bufRemove
  /-- BufAccess and its answer (R53). -/
  | bufAccess (answer : Presence)
  /-- BufCreate and its answer (R54). -/
  | bufCreate (answer : Presence)
  /-- BufWrite of `bytes` at `offset`, and its answer (R55); the length `n` is the number of bytes. -/
  | bufWrite (offset : BitVec 16) (bytes : List Byte) (answer : BitVec 32)
  /-- A response packet on the host port (spec/30_encoding.md R80). -/
  | response (words : List Word)
  deriving DecidableEq, Repr

/-- The whole state of the model. -/
structure State where
  /-- The parameters, fixed before reset is released (spec/70_reset_and_hazards.md R222). -/
  config : Config
  regs : Registers
  /-- The words the host presents and the block has not taken yet (spec/30_encoding.md R70; notes/assumptions/2.md). -/
  hostIn : List Word
  /-- The collaborator's answers to the transactions to come, one for each (notes/assumptions/4.md). -/
  bufAnswers : List BufAnswer
  /-- The session's buffer: none, or one with these bytes known (spec/10_state.md R39; notes/assumptions/5.md). -/
  buffer : Option Memory
  /-- The transactions and responses so far, oldest first (notes/assumptions/6.md). -/
  portLog : List PortEvent
  deriving DecidableEq, Repr

/-- Why the machine stops. -/
inductive Fault where
  /-- A buffer transaction is never answered: the block is stuck (spec/60_exceptions.md R202, spec/20_memory.md R69).
  Raised by any buffer transaction issued with no answer left. Safe: the spec gives no behaviour here. -/
  | bufferUnanswered
  deriving DecidableEq, Repr

/-- Why a step has no meaning. -/
inductive Refusal where
  /-- An instruction that has no meaning yet; raised by no arm of this model. Safe. -/
  | notModelled (mnemonic : String)
  /-- A configuration outside the constraints of spec/00_scope.md R9 (spec/93_implementation_defined.md section 1: "The
  model rejects such a configuration; no rule is given for it"). Raised by `step`. Safe. -/
  | configurationRefused
  deriving DecidableEq, Repr

/-- The reset values of spec/10_state.md R41. -/
def Registers.reset (c : Config) : Registers where
  ifaceIndex := 0
  tid := 0
  nextFrameIndex := 0
  bufferWritePos := 0
  thisTransferMonotonicTs := 0
  prevTransferMonotonicTs := 0
  firstFrameUtcTs := 0
  thisTransferCrc := 0
  transferInterval := c.defaultTransferInterval

/-- Power-on reset of a block with configuration `c` (spec/70_reset_and_hazards.md R220): nothing presented, nothing
answered, no buffer known. -/
def State.resetWith (c : Config) : State where
  config := c
  regs := Registers.reset c
  hostIn := []
  bufAnswers := []
  buffer := none
  portLog := []

/-- The machine right after reset, in the reference configuration (notes/assumptions/1.md). -/
def State.reset : State := State.resetWith Config.reference

end Sys2Proof.Machine
end

