-- ==== Sys2Proof/Machine/Flags.lean ====
section
/-! DEFINITION. The response: result codes, diagnostic codes and the status word (spec/30_encoding.md R80 to R82). The
block keeps no persistent flag (spec/10_state.md R31); these are all the flags there are. -/

namespace Sys2Proof.Machine

/-- The result codes of ADD_FRAME (R81). -/
inductive ResultCode where
  | notComplete
  | complete
  | singleFrame
  deriving DecidableEq, Repr

/-- The values of R81; 3 is never produced. -/
def ResultCode.code : ResultCode → BitVec 2
  | .notComplete => 0
  | .complete => 1
  | .singleFrame => 2

/-- The informative reason codes (R82). -/
inductive Diag where
  | ok
  | tsZero
  | tsStale
  | restartDrop
  | badIface
  | noCrc
  | unterminated
  | badIndex
  | badTid
  | noBuffer
  | writeFailed
  | illegal
  deriving DecidableEq, Repr

/-- The values of R82; 0xC to 0xF are never produced. -/
def Diag.code : Diag → BitVec 4
  | .ok => 0x0
  | .tsZero => 0x1
  | .tsStale => 0x2
  | .restartDrop => 0x3
  | .badIface => 0x4
  | .noCrc => 0x5
  | .unterminated => 0x6
  | .badIndex => 0x7
  | .badTid => 0x8
  | .noBuffer => 0x9
  | .writeFailed => 0xA
  | .illegal => 0xB

/-- The fields of the status word. Those a command does not set are 0, as R80 says. -/
structure Status where
  op : BitVec 4
  restarted : Bool := false
  diag : Diag := .ok
  illegal : Bool := false
  timedOut : Bool := false
  result : ResultCode := .notComplete
  deriving DecidableEq, Repr

/-- The status word: OP [15:12], RESTARTED [8], DIAG [7:4], ILLEGAL [3], TIMED_OUT [2], RESULT [1:0], the rest 0
(R80). -/
def Status.word (st : Status) : Word :=
  (0 : BitVec 16) ++ st.op ++ (0 : BitVec 3) ++ BitVec.ofBool st.restarted ++ st.diag.code
    ++ BitVec.ofBool st.illegal ++ BitVec.ofBool st.timedOut ++ st.result.code

/-- The status of an ADD_FRAME response: `respond(result, diag, restarted)` (spec/00_scope.md R13). -/
def addFrameStatus (result : ResultCode) (diag : Diag) (restarted : Bool) : Status :=
  { op := opAddFrame, result := result, diag := diag, restarted := restarted }

/-- The status of an ILLEGAL command: RESULT 0, ILLEGAL 1, DIAG 0xB, RESTARTED 0, the header's OP
(spec/60_exceptions.md R201). -/
def illegalStatus (op : BitVec 4) : Status := { op := op, illegal := true, diag := .illegal }

end Sys2Proof.Machine
end

