-- ==== Sys2Proof/Machine/Operands.lean ====
section
/-! DEFINITION. The operands of the commands: the legality checks of spec/30_encoding.md R85 and R86, the register map
of spec/10_state.md R32, and the transfer-ID arithmetic of spec/40_tid_and_timing.md R100 to R102. -/

namespace Sys2Proof.Machine

/-- `IllegalAF(F)` (spec/30_encoding.md R85). -/
def addFrameIllegal (c : Config) (f : Frame) : Bool :=
  decide (2 ^ c.bitlen ≤ f.transferId.toNat) || decide (c.frameIndexMax < f.frameIndex.toNat)
    || decide (c.payloadMax < f.payloadLen)

/-- The CONFIG word of the register map: `{8'b0, PAYLOAD_MAX, FRAME_INDEX_MAX, ABORT_TID_POLICY, CRC_LEN, BITLEN}`,
ADVANCE being 1 (spec/10_state.md R32). -/
def configWord (c : Config) : BitVec 32 :=
  (0 : BitVec 8) ++ BitVec.ofNat 8 c.payloadMax ++ BitVec.ofNat 8 c.frameIndexMax
    ++ BitVec.ofBool (c.abortTidPolicy == .advance) ++ BitVec.ofNat 3 crcLen ++ BitVec.ofNat 4 c.bitlen

/-- The register map: the value of a register number, zero-extended to 64 bits, or none where the number is reserved
(spec/10_state.md R32, spec/43_host_commands.md R181). -/
def readRegister (c : Config) (r : Registers) (reg : BitVec 8) : Option Dword :=
  match reg.toNat with
  | 0x00 => some (r.tid.setWidth 64)
  | 0x01 => some (r.ifaceIndex.setWidth 64)
  | 0x02 => some (r.thisTransferCrc.setWidth 64)
  | 0x03 => some r.firstFrameUtcTs
  | 0x04 => some (r.nextFrameIndex.setWidth 64)
  | 0x05 => some (r.bufferWritePos.setWidth 64)
  | 0x06 => some r.thisTransferMonotonicTs
  | 0x07 => some r.prevTransferMonotonicTs
  | 0x08 => some (r.transferInterval.setWidth 64)
  | 0x10 => some (c.minTransferInterval.setWidth 64)
  | 0x11 => some (c.maxTransferInterval.setWidth 64)
  | 0x12 => some (c.defaultTransferInterval.setWidth 64)
  | 0x13 => some ((configWord c).setWidth 64)
  | _ => none

/-- `HALF = 2^(BITLEN-1)` (spec/00_scope.md R9). -/
def half (c : Config) : Nat := 2 ^ (c.bitlen - 1)

/-- `TidIncrement(a) = (a + 1) mod 2^BITLEN` (spec/40_tid_and_timing.md R100). -/
def tidIncrement (c : Config) (a : BitVec 8) : BitVec 8 := BitVec.ofNat 8 ((a.toNat + 1) % 2 ^ c.bitlen)

/-- `ForwardDistance(a, b) = (b - a) mod 2^BITLEN` (R100). -/
def forwardDistance (c : Config) (a b : BitVec 8) : Nat :=
  (b.toNat + (2 ^ c.bitlen - a.toNat % 2 ^ c.bitlen)) % 2 ^ c.bitlen

/-- The three transfer-ID relations (R101). -/
inductive TidRelation where
  | same
  | future
  /-- The relation REPEAT. -/
  | repeated
  deriving DecidableEq, Repr

/-- `TidRel(cur, inc)`, the transfer-ID relation classifier (R101). -/
def tidRel (c : Config) (cur inc : BitVec 8) : TidRelation :=
  if forwardDistance c cur inc = 0 then .same
  else if forwardDistance c cur inc < half c then .future
  else .repeated

end Sys2Proof.Machine
end

