-- ==== Sys2Proof/Machine/Ops.lean ====
section
/-! DEFINITION. The named operations over the buffer's bytes, the two ports and the registers, and `raise Illegal`, the
block's one exception-like outcome (spec/60_exceptions.md R201). There is no return from it: it saves nothing (R205). -/

namespace Sys2Proof.Machine

/-! The buffer's bytes (spec/20_memory.md R51, R58). -/

/-- The byte at an offset, where one is known. -/
def Memory.read : Memory → Nat → Option Byte
  | [], _ => none
  | cell :: rest, a => if cell.1 = a then some cell.2 else Memory.read rest a

/-- One byte stored at an offset; the offsets stay strictly rising. -/
def Memory.write : Memory → Nat → Byte → Memory
  | [], a, b => [(a, b)]
  | cell :: rest, a, b =>
    if a < cell.1 then (a, b) :: cell :: rest
    else if cell.1 = a then (a, b) :: rest
    else cell :: Memory.write rest a b

/-- Bytes stored at ascending offsets (R58). -/
def Memory.writeBytes : Memory → Nat → List Byte → Memory
  | m, _, [] => m
  | m, a, b :: bs => Memory.writeBytes (m.write a b) (a + 1) bs

/-- The canonical form: offsets strictly rising. -/
abbrev Memory.Wf (m : Memory) : Prop := m.Pairwise (fun x y => x.1 < y.1)

/-- The known byte of the session's buffer at an offset. -/
def State.bufferByte (s : State) (a : Nat) : Option Byte := s.buffer.bind (fun m => m.read a)

/-- The bytes known in the session's buffer are in canonical form. -/
abbrev State.BufferWf (s : State) : Prop := (s.buffer.getD []).Wf

/-! The buffer port. Each transaction takes one answer of the collaborator; where none is left it is never answered
(spec/60_exceptions.md R202) and there is no next state: `none`. -/

/-- The state with one more event on the ports. -/
def State.logEvent (s : State) (e : PortEvent) : State := { s with portLog := s.portLog ++ [e] }

/-- The answer to the transaction being issued, and the answers that remain. -/
def State.takeAnswer (s : State) : Option (BufAnswer × State) :=
  match s.bufAnswers with
  | [] => none
  | a :: rest => some (a, { s with bufAnswers := rest })

/-- BufRemove: the session's buffer is discarded, if there is one (spec/20_memory.md R52). -/
def State.bufRemove (s : State) : Option State :=
  s.takeAnswer.map fun (_, s') => { s'.logEvent .bufRemove with buffer := none }

/-- The buffer after BufAccess answered: a buffer that is PRESENT keeps the bytes known of it. -/
def accessedBuffer (m : Option Memory) : Presence → Option Memory
  | .present => some (m.getD [])
  | .absent => none

/-- BufAccess (R53). -/
def State.bufAccess (s : State) : Option (Presence × State) :=
  s.takeAnswer.map fun (a, s') =>
    (a.presence, { s'.logEvent (.bufAccess a.presence) with buffer := accessedBuffer s.buffer a.presence })

/-- The buffer after BufCreate answered: nothing is known of the bytes of a new buffer. -/
def createdBuffer : Presence → Option Memory
  | .present => some []
  | .absent => none

/-- BufCreate (R54). -/
def State.bufCreate (s : State) : Option (Presence × State) :=
  s.takeAnswer.map fun (a, s') =>
    (a.presence, { s'.logEvent (.bufCreate a.presence) with buffer := createdBuffer a.presence })

/-- A BufWrite of `n` bytes succeeds exactly when the signed answer is `n` (R57). -/
def writeSucceeds (answer : BitVec 32) (n : Nat) : Bool := decide (answer.toInt = (n : Int))

/-- The buffer after BufWrite answered: on success the bytes stand at ascending offsets (R58); on failure nothing is
known of the buffer any more (R57). -/
def writtenBuffer (m : Option Memory) (offset : BitVec 16) (bytes : List Byte) (answer : BitVec 32) : Option Memory :=
  if writeSucceeds answer bytes.length then some (Memory.writeBytes (m.getD []) offset.toNat bytes) else some []

/-- BufWrite (R55). -/
def State.bufWrite (s : State) (offset : BitVec 16) (bytes : List Byte) : Option (BitVec 32 × State) :=
  s.takeAnswer.map fun (a, s') =>
    (a.written, { s'.logEvent (.bufWrite offset bytes a.written) with
      buffer := writtenBuffer s.buffer offset bytes a.written })

/-- BufAccess, and BufCreate where it answered NONE (spec/41_validation_and_reassembly.md R139). -/
def State.bufAcquire (s : State) : Option (Presence × State) :=
  match s.bufAccess with
  | none => none
  | some (.present, s1) => some (.present, s1)
  | some (.absent, s1) => s1.bufCreate

/-! The host port. -/

/-- `respond`: the status word, and the data words where the command has them (spec/30_encoding.md R80). -/
def State.respond (s : State) (st : Status) (data : List Word) : State :=
  s.logEvent (.response (st.word :: data))

/-- The data words of an ILLEGAL response: two words of 0 for READ_REG, none otherwise (spec/60_exceptions.md R201). -/
def illegalData (op : BitVec 4) : List Word := if op = opReadReg then [0, 0] else []

/-- `raise Illegal` (spec/60_exceptions.md R201): no register written, no transaction, the ILLEGAL response. -/
def State.raiseIllegal (s : State) (op : BitVec 4) : State := s.respond (illegalStatus op) (illegalData op)

/-- What the block finds on the host port. -/
inductive Fetched where
  /-- No whole packet has been presented: the block is idle (spec/60_exceptions.md R211; notes/assumptions/3.md). -/
  | idle
  /-- A command, and the state once its packet is taken. -/
  | command (i : Instr) (taken : State)
  /-- A packet of a reserved OP, and the state once it is taken (spec/30_encoding.md R72, R84). -/
  | reserved (op : BitVec 4) (taken : State)

/-- The next command of the host port (spec/30_encoding.md R70 to R72). -/
def State.fetch (s : State) : Fetched :=
  match decode s.hostIn with
  | .ok (i, rest) => .command i { s with hostIn := rest }
  | .error (.reservedOp op) => .reserved op { s with hostIn := s.hostIn.drop 1 }
  | .error .noHeader => .idle
  | .error (.incomplete _ _) => .idle

/-- A command's outcome: its last state, or stuck where a transaction was never answered. -/
def answered (r : Option State) : Host.Outcome State Fault Refusal :=
  match r with
  | some s => .next s
  | none => .fault .bufferUnanswered

end Sys2Proof.Machine
end

