-- ==== Sys2Proof/Machine/Timing.lean ====
section
/-! DEFINITION. Timeout detection and interval tracking (spec/40_tid_and_timing.md R104 to R113), and CHECK_TIMEOUT. All
arithmetic is exact, over the natural numbers (spec/00_scope.md R12). -/

namespace Sys2Proof.Machine

/-- `IsTimedOut(ts)` (R105), the window being `transfer_interval * (HALF + 1)` ticks (R104). -/
def isTimedOut (c : Config) (r : Registers) (ts : BitVec 64) : Bool :=
  if ts.toNat ≤ r.thisTransferMonotonicTs.toNat then false
  else decide (ts.toNat - r.thisTransferMonotonicTs.toNat > r.transferInterval.toNat * (half c + 1))

/-- `clamp(v, lo, hi) = max(lo, min(v, hi))` (spec/00_scope.md R12). -/
def clamp (v lo hi : Nat) : Nat := max lo (min v hi)

/-- The moving average of R110: 7/8 on history, 1/8 on the sample, truncating. -/
def smoothedInterval (interval sample : Nat) : Nat := (7 * interval + sample) / 8

/-- The interval after a completion: a sample is taken when the old and the new previous timestamps are both valid and
in order (R110). -/
def trackedInterval (c : Config) (r : Registers) : BitVec 32 :=
  let old := r.prevTransferMonotonicTs
  let new := r.thisTransferMonotonicTs
  if old ≠ 0 ∧ new ≠ 0 ∧ old.toNat ≤ new.toNat then
    let sample := clamp (new.toNat - old.toNat) c.minTransferInterval.toNat c.maxTransferInterval.toNat
    BitVec.ofNat 32 (smoothedInterval r.transferInterval.toNat sample)
  else r.transferInterval

/-- `UpdateTransferTimings()` (R110). -/
def updateTransferTimings (c : Config) (r : Registers) : Registers :=
  { r with prevTransferMonotonicTs := r.thisTransferMonotonicTs, transferInterval := trackedInterval c r }

/-- CHECK_TIMEOUT (R106). -/
def execCheckTimeout (reserved : BitVec 28) (ts : BitVec 64) (s : State) : Host.Outcome State Fault Refusal :=
  if reserved ≠ 0 then .next (s.raiseIllegal opCheckTimeout)
  else .next (s.respond { op := opCheckTimeout, timedOut := isTimedOut s.config s.regs ts } [])

end Sys2Proof.Machine
end

