-- ==== Sys2Proof/Machine/Reassembly.lean ====
section
/-! DEFINITION. Validate, WritePayload and Receive (spec/41_validation_and_reassembly.md), which ADD_FRAME runs after its
restart decision. -/

namespace Sys2Proof.Machine

/-- The per-transfer counters are reset together (R120). -/
def resetCounters (r : Registers) : Registers := { r with nextFrameIndex := 0, bufferWritePos := 0 }

/-- `PrepareForNextTransfer()` (R121). -/
def prepareForNextTransfer (c : Config) (r : Registers) : Registers :=
  resetCounters { r with tid := tidIncrement c r.tid }

/-- `tid` after an abort, by ABORT_TID_POLICY (R122). -/
def tidAfterAbort (c : Config) (tid : BitVec 8) : BitVec 8 :=
  match c.abortTidPolicy with
  | .advance => tidIncrement c tid
  | .keep => tid

/-- `AbortReset()` (R122). -/
def abortReset (c : Config) (r : Registers) : Registers :=
  resetCounters { r with tid := tidAfterAbort c r.tid }

/-- What Validate answers. -/
inductive Verdict where
  | valid
  | invalid (d : Diag)
  deriving DecidableEq, Repr

/-- `Validate(F)` (R125): the checks in the source's order, the first that fails naming the DIAG code. -/
def validate (c : Config) (r : Registers) (f : Frame) : Verdict :=
  if f.ifaceIndex ≠ r.ifaceIndex then .invalid .badIface
  else if f.isFirstFrame = true ∧ f.isLastFrame = false ∧ f.payloadLen < crcLen then .invalid .noCrc
  else if f.frameIndex.toNat = c.frameIndexMax ∧ f.isLastFrame = false then .invalid .unterminated
  else if f.frameIndex ≠ r.nextFrameIndex then .invalid .badIndex
  else if tidRel c r.tid f.transferId ≠ .same then .invalid .badTid
  else .valid

/-- The CRC prefix, little-endian (spec/20_memory.md R58). Only frames of at least CRC_LEN bytes come here (R133); the
bytes a shorter frame lacks are read as 0 on no path of ADD_FRAME (notes/assumptions/12.md). -/
def extractCrc (payload : List Byte) : BitVec 16 :=
  (payload.getD 0 0).setWidth 16 ||| ((payload.getD 1 0).setWidth 16 <<< 8)

/-- The bytes WritePayload writes: a first frame's without its CRC prefix (R131). -/
def payloadSlice (f : Frame) : List Byte := if f.isFirstFrame then f.payload.drop crcLen else f.payload

/-- The CRC register after a frame's payload was looked at: a first frame's CRC is extracted (R131, R132). -/
def captureCrc (f : Frame) (r : Registers) : Registers :=
  { r with thisTransferCrc := if f.isFirstFrame then extractCrc f.payload else r.thisTransferCrc }

/-- `buffer_write_pos` advanced by `n` (R131). -/
def advanceWritePos (n : Nat) (r : Registers) : Registers :=
  { r with bufferWritePos := r.bufferWritePos + BitVec.ofNat 16 n }

/-- `WritePayload(F)` on the buffer obtained (R131): whether the write succeeded. The CRC is written before the
BufWrite and kept whatever its outcome (R132). -/
def writePayload (f : Frame) (s : State) : Option (Bool × State) :=
  let s1 := { s with regs := captureCrc f s.regs }
  match s1.bufWrite s1.regs.bufferWritePos (payloadSlice f) with
  | none => none
  | some (r, s2) =>
    if writeSucceeds r (payloadSlice f).length then
      some (true, { s2 with regs := advanceWritePos (payloadSlice f).length s2.regs })
    else some (false, s2)

/-- Timestamp capture from a frame marked first (R137). -/
def captureTimestamps (f : Frame) (r : Registers) : Registers :=
  { r with
    thisTransferMonotonicTs := if f.isFirstFrame then f.monotonicTimestamp else r.thisTransferMonotonicTs
    firstFrameUtcTs := if f.isFirstFrame then f.utcTimestamp else r.firstFrameUtcTs }

/-- The registers after a single-frame transfer (R138). -/
def completeSingleFrame (c : Config) (r : Registers) : Registers :=
  { prepareForNextTransfer c (updateTransferTimings c r) with thisTransferCrc := 0 }

/-- The single-frame path (R138): one BufRemove, whether or not a buffer exists. -/
def receiveSingleFrame (s : State) : Option (ResultCode × Diag × State) :=
  match s.bufRemove with
  | none => none
  | some s1 => some (.singleFrame, .ok, { s1 with regs := completeSingleFrame s1.config s1.regs })

/-- The write-failure abort (R140). -/
def abortWrite (s : State) : Option (ResultCode × Diag × State) :=
  match s.bufRemove with
  | none => none
  | some s1 => some (.notComplete, .writeFailed, { s1 with regs := abortReset s1.config s1.regs })

/-- Progress after a successful write, and completion on a last frame (R141 to R143). -/
def takeFrame (f : Frame) (s : State) : ResultCode × Diag × State :=
  let advanced := { s.regs with nextFrameIndex := s.regs.nextFrameIndex + 1 }
  if f.isLastFrame then
    (.complete, .ok,
      { s with regs := prepareForNextTransfer s.config (updateTransferTimings s.config advanced) })
  else (.notComplete, .ok, { s with regs := advanced })

/-- The multi-frame path of Receive (R139 to R143). -/
def receiveMultiFrame (f : Frame) (s : State) : Option (ResultCode × Diag × State) :=
  match s.bufAcquire with
  | none => none
  | some (.absent, s1) => some (.notComplete, .noBuffer, { s1 with regs := abortReset s1.config s1.regs })
  | some (.present, s1) =>
    match writePayload f s1 with
    | none => none
    | some (false, s2) => abortWrite s2
    | some (true, s2) => some (takeFrame f s2)

/-- `Receive(F)` (R136). -/
def receive (f : Frame) (s : State) : Option (ResultCode × Diag × State) :=
  let s1 := { s with regs := captureTimestamps f s.regs }
  if f.isFirstFrame = true ∧ f.isLastFrame = true then receiveSingleFrame s1
  else receiveMultiFrame f s1

end Sys2Proof.Machine
end

