-- ==== Sys2Proof/Machine/AddFrame.lean ====
section
/-! DEFINITION. ADD_FRAME, the frame-intake and restart machine (spec/42_add_frame.md). -/

namespace Sys2Proof.Machine

/-- The six derived conditions (R152). -/
structure Conditions where
  notInitialized : Bool
  receiverTimedOut : Bool
  sameIface : Bool
  firstFrame : Bool
  tidRelation : TidRelation
  ifaceTimedOut : Bool
  deriving DecidableEq, Repr

/-- The interface timeout: elapsed strictly greater than `2 * transfer_interval` (R153). -/
def isIfaceTimedOut (r : Registers) (ts : BitVec 64) : Bool :=
  decide (ts.toNat - r.thisTransferMonotonicTs.toNat > r.transferInterval.toNat * 2)

/-- The conditions, from the state before any write of the command (R152). -/
def conditionsOf (c : Config) (r : Registers) (f : Frame) : Conditions where
  notInitialized := decide (r.thisTransferMonotonicTs = 0)
  receiverTimedOut := isTimedOut c r f.monotonicTimestamp
  sameIface := decide (f.ifaceIndex = r.ifaceIndex)
  firstFrame := f.isFirstFrame
  tidRelation := tidRel c r.tid f.transferId
  ifaceTimedOut := isIfaceTimedOut r f.monotonicTimestamp

/-- `need_restart` (R154). -/
def Conditions.needRestart (k : Conditions) : Bool :=
  k.notInitialized || k.receiverTimedOut
    || (k.sameIface && k.firstFrame && k.tidRelation == .future)
    || (k.ifaceTimedOut && k.firstFrame && k.tidRelation == .future)

/-- The tagged action of R155; `proceed` is CONTINUE. -/
inductive Action where
  | proceed
  | restartContinue
  | restartDrop
  deriving DecidableEq, Repr

/-- The restart decision (R155). -/
def Conditions.action (k : Conditions) : Action :=
  if k.needRestart then (if k.firstFrame then .restartContinue else .restartDrop) else .proceed

/-- The registers after a restart (R156). -/
def restartRegisters (f : Frame) (r : Registers) : Registers :=
  { r with
    ifaceIndex := f.ifaceIndex
    tid := f.transferId
    nextFrameIndex := 0
    bufferWritePos := 0
    thisTransferCrc := 0 }

/-- `Restart(F)` (R156). -/
def restart (f : Frame) (s : State) : Option State :=
  match s.bufRemove with
  | none => none
  | some s1 => some { s1 with regs := restartRegisters f s1.regs }

/-- Restart-and-drop (R157). -/
def restartAndDrop (f : Frame) (s : State) : Option State :=
  match restart f s with
  | none => none
  | some s1 =>
    let dropped := { s1 with regs := { s1.regs with tid := tidIncrement s1.config s1.regs.tid } }
    some (dropped.respond (addFrameStatus .notComplete .restartDrop true) [])

/-- Validate, then Receive (R158), with the RESTARTED bit of the response. -/
def validateAndReceive (f : Frame) (restarted : Bool) (s : State) : Option State :=
  match validate s.config s.regs f with
  | .invalid d => some (s.respond (addFrameStatus .notComplete d restarted) [])
  | .valid =>
    match receive f s with
    | none => none
    | some (result, d, s1) => some (s1.respond (addFrameStatus result d restarted) [])

/-- A restart on a first frame, which is then taken in (R156, R158). -/
def restartAndContinue (f : Frame) (s : State) : Option State :=
  match restart f s with
  | none => none
  | some s1 => validateAndReceive f true s1

/-- The stale-timestamp precondition of R151; "older" is strict. -/
def isStale (r : Registers) (ts : BitVec 64) : Bool :=
  decide (ts.toNat < r.prevTransferMonotonicTs.toNat) || decide (ts.toNat < r.thisTransferMonotonicTs.toNat)

/-- The part of ADD_FRAME after the timestamp preconditions, in the order of R160: the restart decision comes before
Validate for every frame. So a copy of a frame that completed a transfer is dropped by a restart where the interval that
the completion left makes the receiver timed out, though R163 says of such a copy only that it is rejected with BAD_TID
(DESIGN CHOICE, notes/assumptions/19.md). -/
def intake (f : Frame) (s : State) : Option State :=
  match (conditionsOf s.config s.regs f).action with
  | .proceed => validateAndReceive f false s
  | .restartContinue => restartAndContinue f s
  | .restartDrop => restartAndDrop f s

/-- ADD_FRAME (R160). -/
def execAddFrame (f : Frame) (s : State) : Host.Outcome State Fault Refusal :=
  if addFrameIllegal s.config f then .next (s.raiseIllegal opAddFrame)
  else if f.monotonicTimestamp = 0 then .next (s.respond (addFrameStatus .notComplete .tsZero false) [])
  else if isStale s.regs f.monotonicTimestamp then
    .next (s.respond (addFrameStatus .notComplete .tsStale false) [])
  else answered (intake f s)

end Sys2Proof.Machine
end

