-- ==== Sys2Proof/Machine/HostCommands.lean ====
section
/-! DEFINITION. NOP, READ_REG and RESET (spec/43_host_commands.md). -/

namespace Sys2Proof.Machine

/-- NOP (R180). -/
def execNop (reserved : BitVec 28) (s : State) : Host.Outcome State Fault Refusal :=
  if reserved ≠ 0 then .next (s.raiseIllegal opNop) else .next (s.respond { op := opNop } [])

/-- READ_REG (R181): the data words are the register's value, low word first. -/
def execReadReg (reserved : BitVec 20) (reg : BitVec 8) (s : State) : Host.Outcome State Fault Refusal :=
  if reserved ≠ 0 then .next (s.raiseIllegal opReadReg)
  else
    match readRegister s.config s.regs reg with
    | none => .next (s.raiseIllegal opReadReg)
    | some data => .next (s.respond { op := opReadReg } (dwordWords data))

/-- The registers RESET writes, all nine (R183). -/
def resetRegisters (c : Config) : Registers where
  ifaceIndex := 0
  tid := 0
  nextFrameIndex := 0
  bufferWritePos := 0
  thisTransferMonotonicTs := 0
  prevTransferMonotonicTs := 0
  firstFrameUtcTs := 0
  thisTransferCrc := 0
  transferInterval := c.defaultTransferInterval

/-- RESET (R183): no transaction, the configuration and the session's buffer are left. -/
def execReset (reserved : BitVec 28) (s : State) : Host.Outcome State Fault Refusal :=
  if reserved ≠ 0 then .next (s.raiseIllegal opReset)
  else .next ({ s with regs := resetRegisters s.config }.respond { op := opReset } [])

end Sys2Proof.Machine
end

