-- ==== Sys2Proof/Machine/Dispatch.lean ====
section
/-! DEFINITION. One arm per constructor of Instr, each one direct call of that instruction's meaning. -/

namespace Sys2Proof.Machine

def exec (i : Instr) (s : State) : Host.Outcome State Fault Refusal :=
  match i with
  | .nop reserved => Sys2Proof.Machine.execNop reserved s
  | .addFrame frame => Sys2Proof.Machine.execAddFrame frame s
  | .checkTimeout reserved ts => Sys2Proof.Machine.execCheckTimeout reserved ts s
  | .readReg reserved reg => Sys2Proof.Machine.execReadReg reserved reg s
  | .reset reserved => Sys2Proof.Machine.execReset reserved s

end Sys2Proof.Machine
end

