-- ==== Sys2Proof/Machine/Step.lean ====
section
/-! DEFINITION. One step: the block takes the next command packet from the host port and executes it to its response
(spec/20_memory.md R63). With no whole packet presented it is idle, its state held (spec/60_exceptions.md R211). -/

namespace Sys2Proof.Machine

/-- One step. A configuration outside the constraints is rejected (spec/93_implementation_defined.md section 1). -/
def step (s : State) : Host.Outcome State Fault Refusal :=
  if s.config.Valid then
    match s.fetch with
    | .idle => .next s
    | .command i taken => exec i taken
    | .reserved op taken => .next (taken.raiseIllegal op)
  else .refused .configurationRefused

/-- The state whose next command is the table instruction `w` of `nbits` bits: its packet stands first on the host
port (notes/assumptions/2.md). -/
def State.withFetchWord (s : State) (nbits w : Nat) : State := { s with hostIn := tablePacket nbits w ++ s.hostIn }

end Sys2Proof.Machine
end

