-- ==== Sys2Proof/Safety.lean ====
section
/-! DEFINITION. The terms statements are made in: the invariants of spec/10_state.md R35 and R36, and the conditions of
ADD_FRAME written out from spec/42_add_frame.md and spec/41_validation_and_reassembly.md as propositions, apart from
the functions the meanings use. -/

namespace Sys2Proof.Machine

/-- The state with one more response on the host port, and nothing else changed. -/
def State.answering (s : State) (words : List Word) : State := { s with portLog := s.portLog ++ [.response words] }

/-! Invariants. -/

/-- The bounds of spec/10_state.md R35 on the registers. The bound on `buffer_write_pos` is the inductive form of R35's
second item: every frame of a transfer wrote at most PAYLOAD_MAX bytes. -/
abbrev Registers.Bounded (c : Config) (r : Registers) : Prop :=
  r.tid.toNat < 2 ^ c.bitlen ∧
  r.nextFrameIndex.toNat ≤ c.frameIndexMax ∧
  r.bufferWritePos.toNat ≤ r.nextFrameIndex.toNat * c.payloadMax ∧
  c.minTransferInterval.toNat ≤ r.transferInterval.toNat ∧
  r.transferInterval.toNat ≤ c.maxTransferInterval.toNat

/-- The order of the start timestamps (spec/10_state.md R36). -/
abbrev Registers.TimestampsOrdered (r : Registers) : Prop :=
  r.prevTransferMonotonicTs.toNat ≤ r.thisTransferMonotonicTs.toNat

/-- What every step keeps: a legal configuration, the bounds of R35, the order of R36, and the canonical form of the
buffer's bytes. -/
abbrev State.Inv (s : State) : Prop :=
  s.config.Valid ∧ s.regs.Bounded s.config ∧ s.regs.TimestampsOrdered ∧ s.BufferWf

/-- The most transactions one command issues: RM ACCESS CREATE WRITE RM (spec/42_add_frame.md R161). -/
def maxTransactions : Nat := 5

/-! The conditions of ADD_FRAME. -/

/-- The forward distance of R100, in integer arithmetic. -/
def tidDistance (c : Config) (cur inc : BitVec 8) : Int := ((inc.toNat : Int) - cur.toNat) % (2 : Int) ^ c.bitlen

/-- The relation SAME (spec/40_tid_and_timing.md R101). -/
abbrev SameTid (c : Config) (cur inc : BitVec 8) : Prop := tidDistance c cur inc = 0

/-- The relation FUTURE (R101). -/
abbrev FutureTid (c : Config) (cur inc : BitVec 8) : Prop :=
  0 < tidDistance c cur inc ∧ tidDistance c cur inc < (2 : Int) ^ (c.bitlen - 1)

/-- IsTimedOut (R104, R105). -/
abbrev TimedOut (c : Config) (r : Registers) (ts : BitVec 64) : Prop :=
  r.thisTransferMonotonicTs.toNat < ts.toNat ∧
    r.transferInterval.toNat * (2 ^ (c.bitlen - 1) + 1) < ts.toNat - r.thisTransferMonotonicTs.toNat

/-- The interface timeout (spec/42_add_frame.md R153). -/
abbrev IfaceTimedOut (r : Registers) (ts : BitVec 64) : Prop :=
  r.transferInterval.toNat * 2 < ts.toNat - r.thisTransferMonotonicTs.toNat

/-- `need_restart` (R154). -/
abbrev NeedRestart (s : State) (f : Frame) : Prop :=
  s.regs.thisTransferMonotonicTs = 0 ∨
  TimedOut s.config s.regs f.monotonicTimestamp ∨
  (f.ifaceIndex = s.regs.ifaceIndex ∧ f.isFirstFrame = true ∧ FutureTid s.config s.regs.tid f.transferId) ∨
  (IfaceTimedOut s.regs f.monotonicTimestamp ∧ f.isFirstFrame = true ∧ FutureTid s.config s.regs.tid f.transferId)

/-- The frame is legal (spec/30_encoding.md R85) and passes the timestamp preconditions (spec/42_add_frame.md R151). -/
abbrev Admitted (s : State) (f : Frame) : Prop :=
  f.InRange s.config ∧ f.monotonicTimestamp ≠ 0 ∧
  s.regs.prevTransferMonotonicTs.toNat ≤ f.monotonicTimestamp.toNat ∧
  s.regs.thisTransferMonotonicTs.toNat ≤ f.monotonicTimestamp.toNat

/-- The state after the restart of R156: the first answer acknowledges its BufRemove. -/
def restartedState (s : State) (f : Frame) : State :=
  { s with
    regs := { s.regs with
      ifaceIndex := f.ifaceIndex
      tid := f.transferId
      nextFrameIndex := 0
      bufferWritePos := 0
      thisTransferCrc := 0 }
    bufAnswers := s.bufAnswers.tail
    buffer := none
    portLog := s.portLog ++ [.bufRemove] }

/-- The state in which Validate and Receive run: restarted where a restart is needed (R158). -/
def intakeState (s : State) (f : Frame) : State := if NeedRestart s f then restartedState s f else s

/-- The RESTARTED bit of the response word (spec/30_encoding.md R80). -/
def restartedBit (s : State) (f : Frame) : Word := if NeedRestart s f then 0x00000100 else 0

/-- The frame reaches Validate: it is admitted, and a restart happens on a first frame only and its BufRemove is
acknowledged (R157, R158). -/
abbrev ReachesValidate (s : State) (f : Frame) : Prop :=
  Admitted s f ∧ (NeedRestart s f → f.isFirstFrame = true ∧ s.bufAnswers ≠ [])

/-- The five checks of Validate pass (spec/41_validation_and_reassembly.md R125). -/
abbrev Validated (s : State) (f : Frame) : Prop :=
  f.ifaceIndex = s.regs.ifaceIndex ∧
  ¬(f.isFirstFrame = true ∧ f.isLastFrame = false ∧ f.payloadLen < crcLen) ∧
  ¬(f.frameIndex.toNat = s.config.frameIndexMax ∧ f.isLastFrame = false) ∧
  f.frameIndex = s.regs.nextFrameIndex ∧
  SameTid s.config s.regs.tid f.transferId

/-- The DIAG code of the first failing check of Validate, in the order of R125 (spec/30_encoding.md R82). -/
inductive FailsWith (s : State) (f : Frame) : Word → Prop where
  | badIface : f.ifaceIndex ≠ s.regs.ifaceIndex → FailsWith s f 0x4
  | noCrc : f.ifaceIndex = s.regs.ifaceIndex →
      f.isFirstFrame = true → f.isLastFrame = false → f.payloadLen < crcLen → FailsWith s f 0x5
  | unterminated : f.ifaceIndex = s.regs.ifaceIndex →
      ¬(f.isFirstFrame = true ∧ f.isLastFrame = false ∧ f.payloadLen < crcLen) →
      f.frameIndex.toNat = s.config.frameIndexMax → f.isLastFrame = false → FailsWith s f 0x6
  | badIndex : f.ifaceIndex = s.regs.ifaceIndex →
      ¬(f.isFirstFrame = true ∧ f.isLastFrame = false ∧ f.payloadLen < crcLen) →
      ¬(f.frameIndex.toNat = s.config.frameIndexMax ∧ f.isLastFrame = false) →
      f.frameIndex ≠ s.regs.nextFrameIndex → FailsWith s f 0x7
  | badTid : f.ifaceIndex = s.regs.ifaceIndex →
      ¬(f.isFirstFrame = true ∧ f.isLastFrame = false ∧ f.payloadLen < crcLen) →
      ¬(f.frameIndex.toNat = s.config.frameIndexMax ∧ f.isLastFrame = false) →
      f.frameIndex = s.regs.nextFrameIndex → ¬SameTid s.config s.regs.tid f.transferId → FailsWith s f 0x8

/-- The frame is validated, after a restart where one is needed. -/
abbrev Accepted (s : State) (f : Frame) : Prop := ReachesValidate s f ∧ Validated (intakeState s f) f

/-- The bytes a frame of a multi-frame transfer writes: a first frame's after its CRC prefix (R131). -/
def writtenBytes (f : Frame) : List Byte := if f.isFirstFrame then f.payload.drop 2 else f.payload

/-- The buffer is acquired with the events `evs`, its known bytes are `bytes`, and `rest` are the answers that remain:
BufAccess answered PRESENT, or NONE and then BufCreate PRESENT (R139). -/
def Acquires (s : State) (evs : List PortEvent) (bytes : Memory) (rest : List BufAnswer) : Prop :=
  (∃ a, s.bufAnswers = a :: rest ∧ a.presence = .present ∧
    evs = [.bufAccess .present] ∧ bytes = s.buffer.getD []) ∨
  (∃ a b, s.bufAnswers = a :: b :: rest ∧ a.presence = .absent ∧ b.presence = .present ∧
    evs = [.bufAccess .absent, .bufCreate .present] ∧ bytes = [])

/-- The registers after the timestamp capture of R137. -/
def capturedRegisters (f : Frame) (r : Registers) : Registers :=
  { r with
    thisTransferMonotonicTs := if f.isFirstFrame then f.monotonicTimestamp else r.thisTransferMonotonicTs
    firstFrameUtcTs := if f.isFirstFrame then f.utcTimestamp else r.firstFrameUtcTs }

/-- The CRC register after WritePayload (R131, R132; spec/20_memory.md R58). -/
def capturedCrc (f : Frame) (r : Registers) : BitVec 16 :=
  if f.isFirstFrame then f.payload.getD 1 0 ++ f.payload.getD 0 0 else r.thisTransferCrc

/-- `tid + 1 mod 2^BITLEN` (spec/40_tid_and_timing.md R100). -/
def followingTid (c : Config) (tid : BitVec 8) : BitVec 8 := BitVec.ofNat 8 ((tid.toNat + 1) % 2 ^ c.bitlen)

/-- `tid` after an abort (spec/41_validation_and_reassembly.md R122). -/
def abortedTid (c : Config) (tid : BitVec 8) : BitVec 8 :=
  match c.abortTidPolicy with
  | .advance => followingTid c tid
  | .keep => tid

/-- `transfer_interval` after a transfer that started at `start` is completed (spec/40_tid_and_timing.md R110). -/
def completedInterval (c : Config) (r : Registers) (start : BitVec 64) : BitVec 32 :=
  if r.prevTransferMonotonicTs ≠ 0 ∧ start ≠ 0 ∧ r.prevTransferMonotonicTs.toNat ≤ start.toNat then
    BitVec.ofNat 32 ((7 * r.transferInterval.toNat +
      max c.minTransferInterval.toNat
        (min (start.toNat - r.prevTransferMonotonicTs.toNat) c.maxTransferInterval.toNat)) / 8)
  else r.transferInterval

/-! Responses. -/

/-- The RESULT field of a status word (spec/30_encoding.md R80). -/
def resultField (w : Word) : BitVec 2 := w.extractLsb' 0 2

/-- The DIAG field (R80). -/
def diagField (w : Word) : BitVec 4 := w.extractLsb' 4 4

/-- The RESTARTED field (R80). -/
def restartedField (w : Word) : Bool := w.getLsbD 8

/-- A buffer transaction, as against a response. -/
def PortEvent.isTransaction : PortEvent → Bool
  | .response _ => false
  | .bufRemove | .bufAccess _ | .bufCreate _ | .bufWrite _ _ _ => true

/-- The command put `txs` on the buffer port and then the status word `w`, with the data words `data`, on the host
port. -/
def Emitted (s t : State) (txs : List PortEvent) (w : Word) (data : List Word) : Prop :=
  t.portLog = s.portLog ++ txs ++ [.response (w :: data)] ∧ ∀ e ∈ txs, e.isTransaction = true

/-- BufRemove of a restart, and the RESTARTED bit it goes with (spec/42_add_frame.md R161). -/
inductive RestartRow (need : Prop) : List PortEvent → Word → Prop where
  | restarted : need → RestartRow need [.bufRemove] 0x0100
  | notRestarted : ¬need → RestartRow need [] 0

/-- A buffer acquired: BufAccess PRESENT, or NONE and BufCreate PRESENT (R161). -/
inductive AcquireRow : List PortEvent → Prop where
  | accessed : AcquireRow [.bufAccess .present]
  | created : AcquireRow [.bufAccess .absent, .bufCreate .present]

/-- The transactions and the status word of an ADD_FRAME, row by row (spec/42_add_frame.md R161). `s` is the state
before the command. -/
inductive PathRow (s : State) (f : Frame) : List PortEvent → Word → Prop where
  | illegal : ¬f.InRange s.config → PathRow s f [] 0x10B8
  | tsZero : f.InRange s.config → f.monotonicTimestamp = 0 → PathRow s f [] 0x1010
  | tsStale : f.InRange s.config → f.monotonicTimestamp ≠ 0 → ¬Admitted s f → PathRow s f [] 0x1020
  | restartDrop : Admitted s f → NeedRestart s f → f.isFirstFrame = false → PathRow s f [.bufRemove] 0x1130
  | invalid (rm : List PortEvent) (bit d : Word) : ReachesValidate s f → RestartRow (NeedRestart s f) rm bit →
      FailsWith (intakeState s f) f d → PathRow s f rm ((0x1000 : Word) ||| (d <<< 4) ||| bit)
  | singleFrame (rm : List PortEvent) (bit : Word) : Accepted s f → RestartRow (NeedRestart s f) rm bit →
      f.isFirstFrame = true → f.isLastFrame = true → PathRow s f (rm ++ [.bufRemove]) (0x1002 ||| bit)
  | noBuffer (rm : List PortEvent) (bit : Word) : Accepted s f → RestartRow (NeedRestart s f) rm bit →
      ¬(f.isFirstFrame = true ∧ f.isLastFrame = true) →
      PathRow s f (rm ++ [.bufAccess .absent, .bufCreate .absent]) (0x1090 ||| bit)
  | writeFailed (rm acq : List PortEvent) (bit : Word) (r : BitVec 32) : Accepted s f →
      RestartRow (NeedRestart s f) rm bit → AcquireRow acq → ¬(f.isFirstFrame = true ∧ f.isLastFrame = true) →
      r.toInt ≠ ((writtenBytes f).length : Int) →
      PathRow s f (rm ++ acq ++
        [.bufWrite (intakeState s f).regs.bufferWritePos (writtenBytes f) r, .bufRemove]) (0x10A0 ||| bit)
  | taken (rm acq : List PortEvent) (bit : Word) (r : BitVec 32) : Accepted s f →
      RestartRow (NeedRestart s f) rm bit → AcquireRow acq → ¬(f.isFirstFrame = true ∧ f.isLastFrame = true) →
      r.toInt = ((writtenBytes f).length : Int) →
      PathRow s f (rm ++ acq ++ [.bufWrite (intakeState s f).regs.bufferWritePos (writtenBytes f) r])
        ((if f.isLastFrame then 0x1001 else 0x1000) ||| bit)

/-- Two states the host cannot tell apart but by READ_REG (spec/10_state.md R42): they agree on everything but
`first_frame_utc_ts`, and, while the receiver is not initialized, but five more registers. -/
abbrev AgreeButUnread (s t : State) : Prop :=
  t.config = s.config ∧ t.hostIn = s.hostIn ∧ t.bufAnswers = s.bufAnswers ∧ t.buffer = s.buffer ∧
  t.portLog = s.portLog ∧
  t.regs.thisTransferMonotonicTs = s.regs.thisTransferMonotonicTs ∧
  t.regs.prevTransferMonotonicTs = s.regs.prevTransferMonotonicTs ∧
  t.regs.transferInterval = s.regs.transferInterval ∧
  (s.regs.thisTransferMonotonicTs ≠ 0 →
    t.regs.ifaceIndex = s.regs.ifaceIndex ∧ t.regs.tid = s.regs.tid ∧
    t.regs.nextFrameIndex = s.regs.nextFrameIndex ∧ t.regs.bufferWritePos = s.regs.bufferWritePos ∧
    t.regs.thisTransferCrc = s.regs.thisTransferCrc)

end Sys2Proof.Machine
end

