-- ==== Sys2Proof/Certificates/Slice0/Obligations.lean ====
section
/-! DEFINITION. The statements. Each docstring names the rule of spec/ it formalises. The configuration is part of the
state, so a statement about every state holds for every configuration (notes/assumptions/1.md). -/

open Sys2Proof Sys2Proof.Machine

/-! Reset and the host commands. -/

/-- Power-on reset and RESET leave the values of R41 in the nine registers (spec/70_reset_and_hazards.md R220). -/
def Obligations.ResetLeavesTheResetValues : Prop :=
  ∀ (s : State),
    (State.resetWith s.config).regs =
      { ifaceIndex := 0, tid := 0, nextFrameIndex := 0, bufferWritePos := 0, thisTransferMonotonicTs := 0,
        prevTransferMonotonicTs := 0, firstFrameUtcTs := 0, thisTransferCrc := 0,
        transferInterval := s.config.defaultTransferInterval } ∧
    ∃ t, exec (.reset 0) s = .next t ∧ t.regs = (State.resetWith s.config).regs

/-- RESET writes the nine registers, answers OK and touches nothing else; with reserved bits set it is ILLEGAL. Its
header is OP 0xF. After it the first frame taken in restarts the receiver (spec/43_host_commands.md R183). -/
def Obligations.ResetCommandEffect : Prop :=
  (∀ (r : BitVec 28) (rest : List Word), decode ((0xF#4 ++ r : Word) :: rest) = .ok (.reset r, rest)) ∧
  (∀ (s t : State) (f : Frame), exec (.reset 0) s = .next t → NeedRestart t f) ∧
  ∀ (r : BitVec 28) (s : State),
    exec (.reset r) s =
      if r = 0 then
        .next ({ s with
          regs :=
            { ifaceIndex := 0, tid := 0, nextFrameIndex := 0, bufferWritePos := 0, thisTransferMonotonicTs := 0,
              prevTransferMonotonicTs := 0, firstFrameUtcTs := 0, thisTransferCrc := 0,
              transferInterval := s.config.defaultTransferInterval } }.answering [0x0000F000])
      else .next (s.answering [0x0000F0B8])

/-- NOP answers OK and changes nothing; with reserved bits set it is ILLEGAL. Its header is OP 0x0, so the word 0 is a
NOP (R180). -/
def Obligations.NopAnswersAndChangesNothing : Prop :=
  (∀ (r : BitVec 28) (rest : List Word), decode ((0x0#4 ++ r : Word) :: rest) = .ok (.nop r, rest)) ∧
  ∀ (r : BitVec 28) (s : State),
    exec (.nop r) s = .next (s.answering [if r = 0 then 0x00000000 else 0x000000B8])

/-- CHECK_TIMEOUT answers whether the elapsed time exceeds `transfer_interval * (2^(BITLEN-1) + 1)`, and changes
nothing; its packet is OP 0x2 and the timestamp, low word first (spec/40_tid_and_timing.md R106, with R104 and R105). -/
def Obligations.CheckTimeoutAnswersTheTimeout : Prop :=
  (∀ (r : BitVec 28) (ts : BitVec 64) (rest : List Word),
    decode ((0x2#4 ++ r : Word) :: ts.extractLsb' 0 32 :: ts.extractLsb' 32 32 :: rest) =
      .ok (.checkTimeout r ts, rest)) ∧
  ∀ (r : BitVec 28) (ts : BitVec 64) (s : State),
    exec (.checkTimeout r ts) s =
      .next (s.answering [if r ≠ 0 then 0x000020B8
        else if s.regs.thisTransferMonotonicTs.toNat < ts.toNat ∧
            s.regs.transferInterval.toNat * (2 ^ (s.config.bitlen - 1) + 1) <
              ts.toNat - s.regs.thisTransferMonotonicTs.toNat
          then 0x00002004 else 0x00002000])

/-- READ_REG answers the register's value zero-extended to 64 bits, low word first, for every register of the map
(spec/10_state.md R32). The CONFIG word is given as a sum of its fields. -/
def Obligations.ReadRegAnswersTheRegister : Prop :=
  ∀ (s : State),
    (∀ (reg : BitVec 8) (v : Nat),
      (reg, v) ∈
        [(0x00#8, s.regs.tid.toNat), (0x01#8, s.regs.ifaceIndex.toNat), (0x02#8, s.regs.thisTransferCrc.toNat),
         (0x03#8, s.regs.firstFrameUtcTs.toNat), (0x04#8, s.regs.nextFrameIndex.toNat),
         (0x05#8, s.regs.bufferWritePos.toNat), (0x06#8, s.regs.thisTransferMonotonicTs.toNat),
         (0x07#8, s.regs.prevTransferMonotonicTs.toNat), (0x08#8, s.regs.transferInterval.toNat),
         (0x10#8, s.config.minTransferInterval.toNat), (0x11#8, s.config.maxTransferInterval.toNat),
         (0x12#8, s.config.defaultTransferInterval.toNat)] →
      exec (.readReg 0 reg) s =
        .next (s.answering [0x00003000, BitVec.ofNat 32 (v % 2 ^ 32), BitVec.ofNat 32 (v / 2 ^ 32)])) ∧
    (s.config.Valid →
      exec (.readReg 0 0x13) s =
        .next (s.answering [0x00003000,
          BitVec.ofNat 32 (s.config.bitlen + 2 * 2 ^ 4 +
            (match s.config.abortTidPolicy with | .advance => 1 | .keep => 0) * 2 ^ 7 +
            s.config.frameIndexMax * 2 ^ 8 + s.config.payloadMax * 2 ^ 16), 0]))

/-- A READ_REG with reserved bits set or a number outside the map is ILLEGAL, with two data words of 0
(spec/30_encoding.md R86, spec/60_exceptions.md R201). -/
def Obligations.ReadRegOutsideTheMapIsIllegal : Prop :=
  ∀ (r : BitVec 20) (reg : BitVec 8) (s : State),
    r ≠ 0 ∨ (0x09 ≤ reg.toNat ∧ reg.toNat ≤ 0x0F) ∨ 0x14 ≤ reg.toNat →
    exec (.readReg r reg) s = .next (s.answering [0x000030B8, 0, 0])

/-- An ADD_FRAME whose TID, FIDX or PLEN is out of range does nothing but answer ILLEGAL; any other ADD_FRAME, whatever
its flags and its interface, is not answered ILLEGAL (R85, R201). -/
def Obligations.OutOfRangeFrameIsIllegal : Prop :=
  ∀ (f : Frame) (s : State),
    if 2 ^ s.config.bitlen ≤ f.transferId.toNat ∨ s.config.frameIndexMax < f.frameIndex.toNat ∨
        s.config.payloadMax < f.payload.length
    then exec (.addFrame f) s = .next (s.answering [0x000010B8])
    else ∀ (t : State) (txs : List PortEvent) (w : Word),
      exec (.addFrame f) s = .next t → Emitted s t txs w [] → w.getLsbD 3 = false ∧ diagField w ≠ 0xB

/-- A packet of a reserved OP is one word, taken and answered ILLEGAL with its own OP (R72, R84, R201). -/
def Obligations.ReservedOpIsIllegal : Prop :=
  ∀ (s : State) (header : Word) (rest : List Word),
    s.config.Valid → s.hostIn = header :: rest → 0x4 ≤ header.toNat / 2 ^ 28 → header.toNat / 2 ^ 28 ≤ 0xE →
    step s = .next ({ s with hostIn := rest }.answering [BitVec.ofNat 32 (0xB8 + header.toNat / 2 ^ 28 * 2 ^ 12)])

/-- NOP, CHECK_TIMEOUT and READ_REG write no register and issue no transaction (R184). -/
def Obligations.OnlyAddFrameAndResetWrite : Prop :=
  ∀ (i : Instr) (s t : State),
    (∀ f, i ≠ .addFrame f) → (∀ r, i ≠ .reset r) → exec i s = .next t →
    ∃ words, t = s.answering words

/-! The step and the encodings. -/

/-- A step takes the first command's packet from the host port and is that command's execution (spec/30_encoding.md R70,
R71; the queue of words is the model's, notes/assumptions/2.md). -/
def Obligations.StepRunsTheDecodedCommand : Prop :=
  ∀ (s : State) (i : Instr) (rest : List Word),
    s.config.Valid → decode s.hostIn = .ok (i, rest) → step s = exec i { s with hostIn := rest }

/-- With no whole packet presented the block holds its state (spec/60_exceptions.md R211; that a part of a packet is no
command is the model's reading, notes/assumptions/3.md). -/
def Obligations.NoPacketHoldsTheState : Prop :=
  ∀ (s : State), s.config.Valid →
    (s.hostIn = [] ∨ ∃ header rest, s.hostIn = header :: rest ∧ rest.length + 1 < packetLength header) →
    step s = .next s

/-- A configuration outside the constraints is rejected (spec/93_implementation_defined.md section 1; the form of the
rejection is the model's, notes/assumptions/7.md). -/
def Obligations.BadConfigurationIsRefused : Prop :=
  ∀ (s : State), ¬s.config.Valid → step s = .refused .configurationRefused

/-- The worked encodings and the worked response status words of R90. -/
def Obligations.WorkedEncodings : Prop :=
  decode [0x1C100030, 0x000003E8, 0, 0, 0, 0x00000001] =
    .ok (.addFrame { ifaceIndex := 0, transferId := 3, frameIndex := 0, isFirstFrame := true, isLastFrame := true,
                     payload := [0x01], monotonicTimestamp := 1000, utcTimestamp := 0 }, []) ∧
  decode [0x14700051, 0x00002000, 0x00000001, 0x00000055, 0, 0xBBAA1234, 0x00EEDDCC] =
    .ok (.addFrame { ifaceIndex := 1, transferId := 5, frameIndex := 0, isFirstFrame := true, isLastFrame := false,
                     payload := [0x34, 0x12, 0xAA, 0xBB, 0xCC, 0xDD, 0xEE],
                     monotonicTimestamp := 0x100002000, utcTimestamp := 0x55 }, []) ∧
  decode [0x1803E072, 0x00000005, 0, 0, 0] =
    .ok (.addFrame { ifaceIndex := 2, transferId := 7, frameIndex := 62, isFirstFrame := false, isLastFrame := true,
                     payload := [], monotonicTimestamp := 5, utcTimestamp := 0 }, []) ∧
  decode [0x20000000, 0x00001771, 0] = .ok (.checkTimeout 0 6001, []) ∧
  decode [0x30000002] = .ok (.readReg 0 0x02, []) ∧
  decode [0xF0000000] = .ok (.reset 0, []) ∧
  decode [0x00000000] = .ok (.nop 0, []) ∧
  (addFrameStatus .complete .ok false).word = 0x00001001 ∧
  (illegalStatus opAddFrame).word = 0x000010B8 ∧
  (Status.word { op := opCheckTimeout, timedOut := true }) = 0x00002004 ∧
  (addFrameStatus .notComplete .restartDrop true).word = 0x00001130

/-- Decode and encode agree, for every command an encoding exists for, with reserved bits set or not (R70 to R79). -/
def Obligations.DecodeOfEncode : Prop :=
  ∀ (i : Instr) (rest : List Word), i.Encodable → decode (encode i ++ rest) = .ok (i, rest)

/-- What is decoded stands in the words: the packet has the length of the encoding, the words after it are left, and
but for an ADD_FRAME's payload words the packet is the encoding; the payload of an ADD_FRAME is PLEN bytes, byte `k` of it
being byte `k mod 4` of word `5 + k/4`, whatever the padding (R72 to R79). -/
def Obligations.DecodedPacketIsTheEncoding : Prop :=
  ∀ (ws rest : List Word) (i : Instr),
    decode ws = .ok (i, rest) →
    i.Encodable ∧ ((∀ f, i ≠ .addFrame f) → ws = encode i ++ rest) ∧
    ∃ pkt, ws = pkt ++ rest ∧ pkt.length = (encode i).length ∧ pkt.take 5 = (encode i).take 5 ∧
      ∀ f, i = .addFrame f →
        f.payload.length = (pkt.getD 0 0).toNat / 2 ^ 20 % 64 ∧
        ∀ k, k < f.payload.length → ∃ word, pkt[5 + k / 4]? = some word ∧
          f.payload[k]? = some (word.extractLsb' (8 * (k % 4)) 8)

/-- A step over a whole packet takes exactly that packet, whose length the header alone gives, and ends with one
response of the length its OP gives (R72). -/
def Obligations.StepTakesOnePacket : Prop :=
  ∀ (s t : State) (header : Word) (ws : List Word) (len : Nat),
    s.config.Valid → s.hostIn = header :: ws →
    len = (if header.toNat / 2 ^ 28 = 1 then 5 + (header.toNat / 2 ^ 20 % 64 + 3) / 4
      else if header.toNat / 2 ^ 28 = 2 then 3 else 1) →
    len ≤ ws.length + 1 → step s = .next t →
    t.hostIn = (header :: ws).drop len ∧
    ∃ txs response, t.portLog = s.portLog ++ txs ++ [.response response] ∧
      (∀ e ∈ txs, e.isTransaction = true) ∧
      response.length = if header.toNat / 2 ^ 28 = 3 then 3 else 1

/-- READ_REG of the configuration rows answers the same before and after any step (spec/10_state.md R33). -/
def Obligations.ConfigurationIsConstant : Prop :=
  ∀ (s t : State), step s = .next t →
    t.config = s.config ∧
    ∀ (reg : BitVec 8), 0x10 ≤ reg.toNat → reg.toNat ≤ 0x13 →
      ∃ words, exec (.readReg 0 reg) s = .next (s.answering words) ∧
        exec (.readReg 0 reg) t = .next (t.answering words)

/-! ADD_FRAME, path by path. Each of these gives the whole next state, so what it does not name is unchanged. The
answers left, the known bytes of the buffer and the log of the ports are the model's fields (notes/assumptions/4.md, 5.md
and 6.md); which transactions happen, in which order, with what bytes and what response is the spec's. -/

/-- A timestamp of zero, or one older than a recorded start, rejects the frame with no state change; one equal to a
recorded start is not rejected for its timestamp (R151). -/
def Obligations.TimestampRejections : Prop :=
  ∀ (f : Frame) (s : State), f.InRange s.config →
    (f.monotonicTimestamp = 0 → exec (.addFrame f) s = .next (s.answering [0x00001010])) ∧
    (f.monotonicTimestamp ≠ 0 →
      f.monotonicTimestamp.toNat < s.regs.prevTransferMonotonicTs.toNat ∨
        f.monotonicTimestamp.toNat < s.regs.thisTransferMonotonicTs.toNat →
      exec (.addFrame f) s = .next (s.answering [0x00001020])) ∧
    (f.monotonicTimestamp ≠ 0 →
      s.regs.prevTransferMonotonicTs.toNat ≤ f.monotonicTimestamp.toNat →
      s.regs.thisTransferMonotonicTs.toNat ≤ f.monotonicTimestamp.toNat →
      ∀ (t : State) (txs : List PortEvent) (w : Word), exec (.addFrame f) s = .next t → Emitted s t txs w [] →
        diagField w ≠ 0x1 ∧ diagField w ≠ 0x2)

/-- A restart on a frame that is not a first frame discards the buffer, adopts the frame's interface, leaves `tid` one
past the frame's and answers RESTART_DROP (R156, R157). -/
def Obligations.RestartAndDrop : Prop :=
  ∀ (f : Frame) (s : State) (a : BufAnswer) (rest : List BufAnswer),
    Admitted s f → NeedRestart s f → f.isFirstFrame = false → s.bufAnswers = a :: rest →
    exec (.addFrame f) s = .next
      { s with
        regs := { s.regs with
          ifaceIndex := f.ifaceIndex
          tid := BitVec.ofNat 8 ((f.transferId.toNat + 1) % 2 ^ s.config.bitlen)
          nextFrameIndex := 0
          bufferWritePos := 0
          thisTransferCrc := 0 }
        bufAnswers := rest
        buffer := none
        portLog := s.portLog ++ [.bufRemove, .response [0x00001130]] }

/-- A frame that Validate rejects changes nothing but what its restart changed, and names the first failing check
(R158; spec/41_validation_and_reassembly.md R125). -/
def Obligations.ValidationFailure : Prop :=
  ∀ (f : Frame) (s : State) (d : Word),
    ReachesValidate s f → FailsWith (intakeState s f) f d →
    exec (.addFrame f) s = .next ((intakeState s f).answering [(0x00001000 : Word) ||| (d <<< 4) ||| restartedBit s f])

/-- The single-frame path (R138): one BufRemove, interval tracking, `tid` advanced, counters and CRC zero. -/
def Obligations.SingleFrameTransfer : Prop :=
  ∀ (f : Frame) (s s1 : State) (a : BufAnswer) (rest : List BufAnswer),
    s1 = intakeState s f → Accepted s f → f.isFirstFrame = true → f.isLastFrame = true →
    s1.bufAnswers = a :: rest →
    exec (.addFrame f) s = .next
      { s1 with
        regs := { s1.regs with
          tid := followingTid s1.config s1.regs.tid
          nextFrameIndex := 0
          bufferWritePos := 0
          thisTransferMonotonicTs := f.monotonicTimestamp
          prevTransferMonotonicTs := f.monotonicTimestamp
          firstFrameUtcTs := f.utcTimestamp
          thisTransferCrc := 0
          transferInterval := completedInterval s1.config s1.regs f.monotonicTimestamp }
        bufAnswers := rest
        buffer := none
        portLog := s1.portLog ++ [.bufRemove, .response [0x00001002 ||| restartedBit s f]] }

/-- The no-buffer abort (R139): no BufRemove, the counters reset, `tid` by ABORT_TID_POLICY; the capture stands. -/
def Obligations.NoBufferAbort : Prop :=
  ∀ (f : Frame) (s s1 : State) (a b : BufAnswer) (rest : List BufAnswer),
    s1 = intakeState s f → Accepted s f → ¬(f.isFirstFrame = true ∧ f.isLastFrame = true) →
    s1.bufAnswers = a :: b :: rest → a.presence = .absent → b.presence = .absent →
    exec (.addFrame f) s = .next
      { s1 with
        regs := { capturedRegisters f s1.regs with
          tid := abortedTid s1.config s1.regs.tid
          nextFrameIndex := 0
          bufferWritePos := 0 }
        bufAnswers := rest
        buffer := none
        portLog := s1.portLog ++
          [.bufAccess .absent, .bufCreate .absent, .response [0x00001090 ||| restartedBit s f]] }

/-- The write-failure abort (R140): the buffer removed, the counters reset, `tid` by ABORT_TID_POLICY; the CRC
extracted is kept (R132). -/
def Obligations.WriteFailureAbort : Prop :=
  ∀ (f : Frame) (s s1 : State) (evs : List PortEvent) (bytes : Memory) (w a : BufAnswer) (rest : List BufAnswer),
    s1 = intakeState s f → Accepted s f → ¬(f.isFirstFrame = true ∧ f.isLastFrame = true) →
    Acquires s1 evs bytes (w :: a :: rest) → w.written.toInt ≠ ((writtenBytes f).length : Int) →
    exec (.addFrame f) s = .next
      { s1 with
        regs := { capturedRegisters f s1.regs with
          tid := abortedTid s1.config s1.regs.tid
          nextFrameIndex := 0
          bufferWritePos := 0
          thisTransferCrc := capturedCrc f s1.regs }
        bufAnswers := rest
        buffer := none
        portLog := s1.portLog ++ evs ++
          [.bufWrite s1.regs.bufferWritePos (writtenBytes f) w.written, .bufRemove,
           .response [0x000010A0 ||| restartedBit s f]] }

/-- A frame taken into an open transfer (R141, R143): the position advanced by the bytes written, the index by one; the
bytes stand in the buffer at the position of before, every other byte as it was. -/
def Obligations.FrameTakenIntoTransfer : Prop :=
  ∀ (f : Frame) (s s1 : State) (evs : List PortEvent) (bytes : Memory) (w : BufAnswer) (rest : List BufAnswer),
    s1 = intakeState s f → Accepted s f → f.isLastFrame = false →
    Acquires s1 evs bytes (w :: rest) → w.written.toInt = ((writtenBytes f).length : Int) →
    ∃ t, exec (.addFrame f) s = .next t ∧
      t = { s1 with
        regs := { capturedRegisters f s1.regs with
          nextFrameIndex := s1.regs.nextFrameIndex + 1
          bufferWritePos := s1.regs.bufferWritePos + BitVec.ofNat 16 (writtenBytes f).length
          thisTransferCrc := capturedCrc f s1.regs }
        bufAnswers := rest
        buffer := t.buffer
        portLog := s1.portLog ++ evs ++
          [.bufWrite s1.regs.bufferWritePos (writtenBytes f) w.written,
           .response [0x00001000 ||| restartedBit s f]] } ∧
      t.buffer ≠ none ∧
      ∀ a : Nat, t.bufferByte a =
        if s1.regs.bufferWritePos.toNat ≤ a ∧ a < s1.regs.bufferWritePos.toNat + (writtenBytes f).length then
          (writtenBytes f)[a - s1.regs.bufferWritePos.toNat]?
        else bytes.read a

/-- Multi-frame completion (R142): interval tracking, `tid` advanced, counters reset, the CRC kept, and no BufRemove:
the buffer holds the last frame's bytes behind those of before. -/
def Obligations.MultiFrameTransferCompletes : Prop :=
  ∀ (f : Frame) (s s1 : State) (evs : List PortEvent) (bytes : Memory) (w : BufAnswer) (rest : List BufAnswer),
    s1 = intakeState s f → Accepted s f → f.isFirstFrame = false → f.isLastFrame = true →
    Acquires s1 evs bytes (w :: rest) → w.written.toInt = ((writtenBytes f).length : Int) →
    ∃ t, exec (.addFrame f) s = .next t ∧
      t = { s1 with
        regs := { s1.regs with
          tid := followingTid s1.config s1.regs.tid
          nextFrameIndex := 0
          bufferWritePos := 0
          prevTransferMonotonicTs := s1.regs.thisTransferMonotonicTs
          transferInterval := completedInterval s1.config s1.regs s1.regs.thisTransferMonotonicTs }
        bufAnswers := rest
        buffer := t.buffer
        portLog := s1.portLog ++ evs ++
          [.bufWrite s1.regs.bufferWritePos (writtenBytes f) w.written,
           .response [0x00001001 ||| restartedBit s f]] } ∧
      t.buffer ≠ none ∧
      ∀ a : Nat, t.bufferByte a =
        if s1.regs.bufferWritePos.toNat ≤ a ∧ a < s1.regs.bufferWritePos.toNat + (writtenBytes f).length then
          (writtenBytes f)[a - s1.regs.bufferWritePos.toNat]?
        else bytes.read a

/-- A transaction that is never answered leaves the block stuck, at each place of the rows of R161: the BufRemove of a
restart; a single frame's BufRemove; a BufAccess; a BufCreate after BufAccess answered NONE; a BufWrite on the acquired
buffer; the BufRemove after a failed write (spec/60_exceptions.md R202; the fault is the model's form of it,
notes/assumptions/4.md). -/
def Obligations.UnansweredTransactionIsStuck : Prop :=
  ∀ (f : Frame) (s s1 : State), s1 = intakeState s f →
    (Admitted s f → NeedRestart s f → s.bufAnswers = [] → exec (.addFrame f) s = .fault .bufferUnanswered) ∧
    (Accepted s f → s1.bufAnswers = [] → exec (.addFrame f) s = .fault .bufferUnanswered) ∧
    (Accepted s f → ¬(f.isFirstFrame = true ∧ f.isLastFrame = true) →
      (∀ a, s1.bufAnswers = [a] → a.presence = .absent → exec (.addFrame f) s = .fault .bufferUnanswered) ∧
      (∀ evs bytes, Acquires s1 evs bytes [] → exec (.addFrame f) s = .fault .bufferUnanswered) ∧
      (∀ evs bytes w, Acquires s1 evs bytes [w] → w.written.toInt ≠ ((writtenBytes f).length : Int) →
        exec (.addFrame f) s = .fault .bufferUnanswered))

/-- With enough answers every command runs to its one response, and only an ADD_FRAME short of answers faults (R205,
R200; that the answers stand in a queue is the model's choice, notes/assumptions/4.md). -/
def Obligations.EveryCommandRunsToItsResponse : Prop :=
  ∀ (i : Instr) (s : State),
    (maxTransactions ≤ s.bufAnswers.length → ∃ t, exec i s = .next t) ∧
    (∀ r, exec i s = .fault r → ∃ f, i = .addFrame f ∧ Admitted s f ∧ s.bufAnswers.length < maxTransactions) ∧
    (∀ r, exec i s ≠ .refused r) ∧
    (∀ t, exec i s = .next t → t.hostIn = s.hostIn ∧ t.config = s.config ∧
      ∃ txs w data, Emitted s t txs w data ∧ w.extractLsb' 12 4 = i.op ∧
        txs.length + t.bufAnswers.length = s.bufAnswers.length ∧ ((∀ f, i ≠ .addFrame f) → txs = []))

/-- The transactions of ADD_FRAME with its result and reason, row by row (R161). -/
def Obligations.AddFrameTransactionTable : Prop :=
  ∀ (f : Frame) (s t : State), exec (.addFrame f) s = .next t →
    ∃ txs w, Emitted s t txs w [] ∧ PathRow s f txs w

/-- Where no buffer is removed, found absent or created, a byte outside those the frame wrote reads as before
(spec/20_memory.md R51, R58, R69), the failed write, after which no byte is known, being followed by a removal (R57,
R61; the known bytes are the model's, notes/assumptions/5.md). -/
def Obligations.BytesOutsideTheWriteAreKept : Prop :=
  ∀ (f : Frame) (s t : State) (txs : List PortEvent) (w : Word),
    exec (.addFrame f) s = .next t → Emitted s t txs w [] →
    (∀ e ∈ txs, e = .bufAccess .present ∨ ∃ o bs r, e = .bufWrite o bs r) →
    ∀ a : Nat, ¬(s.regs.bufferWritePos.toNat ≤ a ∧ a < s.regs.bufferWritePos.toNat + (writtenBytes f).length) →
      t.bufferByte a = s.bufferByte a

/-- Which commands but RESET write which of the nine registers (spec/10_state.md R22 to R30): a restart, a completion,
an abort (DIAG 0x9 and 0xA; of `tid` under ADVANCE only), a frame taken in (DIAG 0x0). -/
def Obligations.RegistersAreWrittenOnlyByTheirWriters : Prop :=
  ∀ (i : Instr) (s t : State) (txs : List PortEvent) (w : Word) (data : List Word),
    (∀ r, i ≠ .reset r) → exec i s = .next t → Emitted s t txs w data →
    (t.regs.ifaceIndex ≠ s.regs.ifaceIndex → ∃ f, i = .addFrame f ∧ NeedRestart s f) ∧
    (t.regs.tid ≠ s.regs.tid → ∃ f, i = .addFrame f ∧ (NeedRestart s f ∨ resultField w ≠ 0 ∨
      (s.config.abortTidPolicy = .advance ∧ (diagField w = 0x9 ∨ diagField w = 0xA)))) ∧
    (t.regs.nextFrameIndex ≠ s.regs.nextFrameIndex ∨ t.regs.bufferWritePos ≠ s.regs.bufferWritePos →
      ∃ f, i = .addFrame f ∧ (NeedRestart s f ∨ diagField w = 0x0 ∨ diagField w = 0x9 ∨ diagField w = 0xA)) ∧
    (t.regs.thisTransferMonotonicTs ≠ s.regs.thisTransferMonotonicTs →
      ∃ f, i = .addFrame f ∧ f.isFirstFrame = true ∧ t.regs.thisTransferMonotonicTs = f.monotonicTimestamp) ∧
    (t.regs.firstFrameUtcTs ≠ s.regs.firstFrameUtcTs →
      ∃ f, i = .addFrame f ∧ f.isFirstFrame = true ∧ t.regs.firstFrameUtcTs = f.utcTimestamp) ∧
    (t.regs.prevTransferMonotonicTs ≠ s.regs.prevTransferMonotonicTs →
      resultField w ≠ 0 ∧ t.regs.prevTransferMonotonicTs = t.regs.thisTransferMonotonicTs) ∧
    (t.regs.transferInterval ≠ s.regs.transferInterval → resultField w ≠ 0) ∧
    (t.regs.thisTransferCrc ≠ s.regs.thisTransferCrc →
      ∃ f, i = .addFrame f ∧ (f.isFirstFrame = true ∨ NeedRestart s f))

/-! Consequences. -/

/-- The restart decision's truth table (R155). -/
def Obligations.RestartActionTable : Prop :=
  ∀ (k : Conditions),
    (k.notInitialized = true → k.firstFrame = true → k.action = .restartContinue) ∧
    (k.notInitialized = true → k.firstFrame = false → k.action = .restartDrop) ∧
    (k.notInitialized = false → k.receiverTimedOut = true → k.firstFrame = true → k.action = .restartContinue) ∧
    (k.notInitialized = false → k.receiverTimedOut = true → k.firstFrame = false → k.action = .restartDrop) ∧
    (k.notInitialized = false → k.receiverTimedOut = false → k.firstFrame = false → k.action = .proceed) ∧
    (k.notInitialized = false → k.receiverTimedOut = false → k.firstFrame = true → k.tidRelation ≠ .future →
      k.action = .proceed) ∧
    (k.notInitialized = false → k.receiverTimedOut = false → k.firstFrame = true → k.tidRelation = .future →
      k.sameIface = true → k.action = .restartContinue) ∧
    (k.notInitialized = false → k.receiverTimedOut = false → k.firstFrame = true → k.tidRelation = .future →
      k.sameIface = false → k.ifaceTimedOut = true → k.action = .restartContinue) ∧
    (k.notInitialized = false → k.receiverTimedOut = false → k.firstFrame = true → k.tidRelation = .future →
      k.sameIface = false → k.ifaceTimedOut = false → k.action = .proceed)

/-- The classifier follows the forward distance modulo 2^BITLEN, HALF itself being REPEAT; two distinct transfer IDs
are FUTURE one way and REPEAT the other, but at distance HALF, where both ways are REPEAT
(spec/40_tid_and_timing.md R101, R102). -/
def Obligations.TidRelationIsCircular : Prop :=
  ∀ (c : Config) (cur inc : BitVec 8), c.Valid → cur.toNat < 2 ^ c.bitlen → inc.toNat < 2 ^ c.bitlen →
    (tidRel c cur inc = .same ↔ tidDistance c cur inc = 0) ∧ (tidDistance c cur inc = 0 ↔ inc = cur) ∧
    (tidRel c cur inc = .future ↔
      0 < tidDistance c cur inc ∧ tidDistance c cur inc < (2 : Int) ^ (c.bitlen - 1)) ∧
    (tidRel c cur inc = .repeated ↔ (2 : Int) ^ (c.bitlen - 1) ≤ tidDistance c cur inc) ∧
    (inc ≠ cur → tidDistance c cur inc ≠ (2 : Int) ^ (c.bitlen - 1) →
      (tidRel c cur inc = .future ∧ tidRel c inc cur = .repeated) ∨
      (tidRel c cur inc = .repeated ∧ tidRel c inc cur = .future)) ∧
    (tidDistance c cur inc = (2 : Int) ^ (c.bitlen - 1) →
      tidRel c cur inc = .repeated ∧ tidRel c inc cur = .repeated)

/-- Once timed out, timed out at every later timestamp, and after every command that writes neither
`this_transfer_monotonic_ts` nor `transfer_interval` (R107). -/
def Obligations.TimeoutStaysForLaterTimestamps : Prop :=
  ∀ (s : State) (ts later : BitVec 64), ts.toNat ≤ later.toNat →
    exec (.checkTimeout 0 ts) s = .next (s.answering [0x00002004]) →
    exec (.checkTimeout 0 later) s = .next (s.answering [0x00002004]) ∧
    ∀ (i : Instr) (t : State), exec i s = .next t →
      t.regs.thisTransferMonotonicTs = s.regs.thisTransferMonotonicTs →
      t.regs.transferInterval = s.regs.transferInterval →
      exec (.checkTimeout 0 later) t = .next (t.answering [0x00002004])

/-- The receiver's timeout implies the interface's, in every legal configuration (spec/42_add_frame.md R153). -/
def Obligations.ReceiverTimeoutImpliesInterfaceTimeout : Prop :=
  ∀ (c : Config) (r : Registers) (ts : BitVec 64), c.Valid →
    isTimedOut c r ts = true → isIfaceTimedOut r ts = true

/-- Under a constant sample the average never overshoots: it falls to the sample exactly, or rises to within 7 of it and
stays (spec/40_tid_and_timing.md R112). -/
def Obligations.IntervalConverges : Prop :=
  ∀ (a x : Nat),
    (x < a → x ≤ smoothedInterval a x ∧ smoothedInterval a x ≤ a - 1) ∧
    (a = x → smoothedInterval a x = x) ∧
    (a < x → smoothedInterval a x = a + (x - a) / 8 ∧ smoothedInterval a x ≤ x) ∧
    (a < x → x ≤ a + 7 → smoothedInterval a x = a) ∧
    (x ≤ a → ∃ n, ∀ k, n ≤ k → (fun v => smoothedInterval v x)^[k] a = x) ∧
    (a < x → ∃ n v, x ≤ v + 7 ∧ v ≤ x ∧ ∀ k, n ≤ k → (fun v => smoothedInterval v x)^[k] a = v)

/-- A frame of another interface, with no failover due, is rejected with BAD_IFACE and changes nothing (R163: failover;
same TID on another interface). -/
def Obligations.OtherInterfaceIsRejected : Prop :=
  ∀ (f : Frame) (s : State),
    Admitted s f → s.regs.thisTransferMonotonicTs ≠ 0 → f.ifaceIndex ≠ s.regs.ifaceIndex →
    ¬TimedOut s.config s.regs f.monotonicTimestamp →
    ¬(IfaceTimedOut s.regs f.monotonicTimestamp ∧ f.isFirstFrame = true ∧
      FutureTid s.config s.regs.tid f.transferId) →
    exec (.addFrame f) s = .next (s.answering [0x00001040])

/-- After COMPLETE or SINGLE_FRAME the registers describe the completed transfer: `tid` is one past the frame's, the
interface is the frame's, a single frame leaves no CRC, and the last frame of several leaves the CRC and the UTC timestamp
of the transfer as they were (spec/70_reset_and_hazards.md R225). -/
def Obligations.CompletionLeavesTheTransfersRegisters : Prop :=
  ∀ (f : Frame) (s t : State) (txs : List PortEvent) (w : Word),
    exec (.addFrame f) s = .next t → Emitted s t txs w [] → resultField w ≠ 0 →
    t.regs.tid.toNat = ((f.transferId.toNat + 1) % 2 ^ s.config.bitlen) % 2 ^ 8 ∧
    t.regs.ifaceIndex = f.ifaceIndex ∧
    t.regs.nextFrameIndex = 0 ∧ t.regs.bufferWritePos = 0 ∧
    (f.isFirstFrame = true → t.regs.firstFrameUtcTs = f.utcTimestamp) ∧
    (resultField w = 2 → t.regs.thisTransferCrc = 0) ∧
    (resultField w = 1 →
      t.regs.thisTransferCrc = s.regs.thisTransferCrc ∧ t.regs.firstFrameUtcTs = s.regs.firstFrameUtcTs)

/-- A copy of the frame that was just taken into an open transfer is rejected with BAD_INDEX and changes nothing
(R163). -/
def Obligations.DuplicateInTransferIsRejected : Prop :=
  ∀ (f : Frame) (s t : State) (txs : List PortEvent) (w : Word),
    exec (.addFrame f) s = .next t → Emitted s t txs w [] → diagField w = 0 → resultField w = 0 →
    exec (.addFrame f) t = .next (t.answering [0x00001070])

/-- A copy of the single frame that was just completed is rejected and changes nothing: BAD_TID, or BAD_INDEX, which is
checked first, where its index is not 0 (R163, R125). -/
def Obligations.DuplicateSingleFrameIsRejected : Prop :=
  ∀ (f : Frame) (s t : State) (txs : List PortEvent) (w : Word),
    s.config.Valid → exec (.addFrame f) s = .next t → Emitted s t txs w [] → resultField w = 2 →
    exec (.addFrame f) t = .next (t.answering [if f.frameIndex = 0 then 0x00001080 else 0x00001070])

/-- A copy of the last frame that just completed a multi-frame transfer. Where the interval, as the completion left it,
makes the receiver timed out at the frame's timestamp, the copy restarts the receiver and is dropped (R160); else it is
rejected and changes nothing: BAD_INDEX, or BAD_TID where its index is 0. R163 names BAD_TID alone; that the order of
R160 and R125 prevails is the model's choice (notes/assumptions/18.md and 19.md). -/
def Obligations.DuplicateLastFrameRestartsOrIsRejected : Prop :=
  ∀ (f : Frame) (s t : State) (txs : List PortEvent) (w : Word),
    s.config.Valid → exec (.addFrame f) s = .next t → Emitted s t txs w [] → resultField w = 1 →
    (¬TimedOut t.config t.regs f.monotonicTimestamp →
      exec (.addFrame f) t = .next (t.answering [if f.frameIndex = 0 then 0x00001080 else 0x00001070])) ∧
    (TimedOut t.config t.regs f.monotonicTimestamp → ∀ (a : BufAnswer) (rest : List BufAnswer),
      t.bufAnswers = a :: rest →
      exec (.addFrame f) t = .next
        { t with
          regs := { t.regs with thisTransferCrc := 0 }
          bufAnswers := rest
          buffer := none
          portLog := t.portLog ++ [.bufRemove, .response [0x00001130]] })

/-- Rejects are idempotent (R164): a frame rejected without a restart changes nothing; any rejected or dropped frame,
fed again, is rejected again and leaves the registers as they are, the restart being repeated exactly where it was due to
the receiver being not initialized or timed out. -/
def Obligations.RejectsAreIdempotent : Prop :=
  ∀ (f : Frame) (s t u : State) (txs again : List PortEvent) (w w' : Word),
    exec (.addFrame f) s = .next t → Emitted s t txs w [] →
    diagField w ≠ 0x0 → diagField w ≠ 0x9 → diagField w ≠ 0xA →
    exec (.addFrame f) t = .next u → Emitted t u again w' [] →
    resultField w = 0 ∧ resultField w' = 0 ∧ diagField w' = diagField w ∧
    u.regs = t.regs ∧
    (restartedField w = false → t = s.answering [w] ∧ u = t.answering [w]) ∧
    (restartedField w = true →
      txs = [.bufRemove] ∧
      (again = if s.regs.thisTransferMonotonicTs = 0 ∨ TimedOut s.config s.regs f.monotonicTimestamp
        then [.bufRemove] else []) ∧
      (f.isFirstFrame = true → diagField w = 0x5 ∨ diagField w = 0x6 ∨ diagField w = 0x7))

/-- The start timestamps stay in order and never regress, and an initialized receiver stays initialized until RESET;
so the check against the previous start rejects no timestamp that the check against the current one accepts
(spec/10_state.md R36). -/
def Obligations.StartTimestampsNeverRegress : Prop :=
  ∀ (i : Instr) (s t : State), s.regs.TimestampsOrdered → exec i s = .next t →
    t.regs.TimestampsOrdered ∧
    (∀ (f : Frame), f.monotonicTimestamp.toNat < t.regs.prevTransferMonotonicTs.toNat →
      f.monotonicTimestamp.toNat < t.regs.thisTransferMonotonicTs.toNat) ∧
    ((∀ r, i ≠ .reset r) →
      s.regs.thisTransferMonotonicTs.toNat ≤ t.regs.thisTransferMonotonicTs.toNat ∧
      (s.regs.thisTransferMonotonicTs ≠ 0 → t.regs.thisTransferMonotonicTs ≠ 0))

/-- The registers nothing reads cannot be seen (spec/10_state.md R42): from states that differ only in
`first_frame_utc_ts` and, before the receiver is initialized, in five more registers, every command but READ_REG stops
alike, or gives the same transactions and the same response and states that differ only so again. -/
def Obligations.UnreadRegistersCannotBeSeen : Prop :=
  ∀ (i : Instr) (s s' : State), (∀ r reg, i ≠ .readReg r reg) → AgreeButUnread s s' →
    (∀ t, exec i s = .next t → ∃ t', exec i s' = .next t' ∧ AgreeButUnread t t') ∧
    (∀ r, exec i s = .fault r → exec i s' = .fault r)

/-! The headline statements. -/

/-- After reset the invariant holds, in every legal configuration and in the one `State.reset` is in, which is the
model's choice (notes/assumptions/1.md). -/
def Obligations.ResetStateIsGood : Prop :=
  State.reset.Inv ∧ ∀ (c : Config), c.Valid → (State.resetWith c).Inv

/-- Every step keeps the bounds of R35, the order of R36 and the canonical form of the buffer's bytes, which is the
model's (notes/assumptions/5.md). -/
def Obligations.EveryStepKeepsTheInvariant : Prop :=
  ∀ (s t : State), s.Inv → step s = .next t → t.Inv

/-- The machine never stops while the collaborator answers: from a good state with five answers for each step to come,
every run of steps goes on, and stays good (spec/60_exceptions.md R200, R205; the queue of answers is the model's,
notes/assumptions/4.md). -/
def Obligations.RunsGoOnWhileAnswered : Prop :=
  ∀ (n : Nat) (s : State), s.Inv → maxTransactions * n ≤ s.bufAnswers.length →
    ∃ t, Sys2Proof.core.run n s = .next t ∧ State.Inv t
end

