-- ==== Sys2Proof/Laws/Memory.lean ====
section
/-! SUPPORT. The bytes of the buffer: read after write, and the canonical form that every operation keeps. -/

namespace Sys2Proof.Machine

@[simp] theorem Memory.read_nil (a : Nat) : Memory.read [] a = none := rfl

@[simp] theorem Memory.writeBytes_nil (m : Memory) (a : Nat) : m.writeBytes a [] = m := rfl

@[simp] theorem Memory.writeBytes_cons (m : Memory) (a : Nat) (b : Byte) (bs : List Byte) :
    m.writeBytes a (b :: bs) = (m.write a b).writeBytes (a + 1) bs := rfl

/-- Reading after a write: the byte written at its offset, the byte before everywhere else. -/
theorem Memory.read_write (m : Memory) (a : Nat) (b : Byte) (x : Nat) :
    (m.write a b).read x = if x = a then some b else m.read x := by
  induction m with
  | nil => simp [Memory.write, Memory.read, eq_comm (a := a)]
  | cons cell rest ih =>
    unfold Memory.write
    split
    · simp only [Memory.read, eq_comm (a := a)]
    · split
      · next hEq => subst hEq; by_cases h : x = cell.1 <;> simp [Memory.read, h, eq_comm (a := cell.1)]
      · next hNe =>
        simp only [Memory.read, ih]
        by_cases hx : cell.1 = x
        · simp [hx, show x ≠ a from fun h => hNe (hx.trans h)]
        · simp [hx]

/-- Reading after a write of several bytes: the byte stored there, or the byte before. -/
theorem Memory.read_writeBytes (m : Memory) (a : Nat) (bs : List Byte) (x : Nat) :
    (m.writeBytes a bs).read x = if a ≤ x ∧ x < a + bs.length then bs[x - a]? else m.read x := by
  induction bs generalizing m a with
  | nil => simp
  | cons b bs ih =>
    rw [Memory.writeBytes_cons, ih, Memory.read_write]
    by_cases hx : x = a
    · subst hx; simp
    · by_cases hin : a + 1 ≤ x ∧ x < a + 1 + bs.length
      · have hle : a ≤ x ∧ x < a + (b :: bs).length := by simp; omega
        have hsub : x - a = (x - (a + 1)) + 1 := by omega
        rw [if_pos hin, if_pos hle, hsub, List.getElem?_cons_succ]
      · have hle : ¬(a ≤ x ∧ x < a + (b :: bs).length) := by simp; omega
        rw [if_neg hin, if_neg hle, if_neg hx]

/-- Every offset of a memory after a write is the offset written or one of before. -/
theorem Memory.mem_write {m : Memory} {a : Nat} {b : Byte} {cell : Host.Cell} (h : cell ∈ m.write a b) :
    cell.1 = a ∨ cell ∈ m := by
  induction m with
  | nil => simp_all [Memory.write]
  | cons head rest ih =>
    unfold Memory.write at h
    split at h
    · rcases List.mem_cons.mp h with rfl | h
      · exact .inl rfl
      · exact .inr h
    · split at h
      · rcases List.mem_cons.mp h with rfl | h
        · exact .inl rfl
        · exact .inr (List.mem_cons_of_mem _ h)
      · rcases List.mem_cons.mp h with rfl | h
        · exact .inr List.mem_cons_self
        · exact (ih h).imp id (List.mem_cons_of_mem _)

/-- A write keeps the canonical form. -/
theorem Memory.write_wf {m : Memory} (hm : m.Wf) (a : Nat) (b : Byte) : (m.write a b).Wf := by
  induction m with
  | nil => simp [Memory.write]
  | cons head rest ih =>
    have ⟨hHead, hRest⟩ := List.pairwise_cons.mp hm
    unfold Memory.write
    split
    · next hlt =>
      refine List.pairwise_cons.mpr ⟨fun y hy => ?_, hm⟩
      rcases List.mem_cons.mp hy with rfl | hy
      · exact hlt
      · exact Nat.lt_trans hlt (hHead y hy)
    · split
      · next hEq => exact List.pairwise_cons.mpr ⟨fun y hy => hEq ▸ hHead y hy, hRest⟩
      · next hlt hNe =>
        refine List.pairwise_cons.mpr ⟨fun y hy => ?_, ih hRest⟩
        rcases Memory.mem_write hy with hy | hy
        · omega
        · exact hHead y hy

/-- A write of several bytes keeps the canonical form. -/
theorem Memory.writeBytes_wf {m : Memory} (hm : m.Wf) (a : Nat) (bs : List Byte) : (m.writeBytes a bs).Wf := by
  induction bs generalizing m a with
  | nil => exact hm
  | cons b bs ih => exact ih (Memory.write_wf hm a b) (a + 1)

/-- BufAccess keeps the canonical form. -/
theorem accessedBuffer_wf {m : Option Memory} (hm : (m.getD []).Wf) (p : Presence) :
    ((accessedBuffer m p).getD []).Wf := by
  cases p
  · exact hm
  · exact List.Pairwise.nil

/-- BufCreate keeps the canonical form. -/
theorem createdBuffer_wf (p : Presence) : ((createdBuffer p).getD []).Wf := by
  cases p <;> exact List.Pairwise.nil

/-- BufWrite keeps the canonical form. -/
theorem writtenBuffer_wf {m : Option Memory} (hm : (m.getD []).Wf) (offset : BitVec 16) (bytes : List Byte)
    (answer : BitVec 32) : ((writtenBuffer m offset bytes answer).getD []).Wf := by
  unfold writtenBuffer
  split
  · exact Memory.writeBytes_wf hm _ _
  · exact List.Pairwise.nil

/-- After reset the buffer's bytes are in canonical form. -/
theorem resetWith_bufferWf (c : Config) : (State.resetWith c).BufferWf := List.Pairwise.nil

end Sys2Proof.Machine
end

