-- ==== Sys2Proof/Laws/State.lean ====
section
/-! SUPPORT. One lemma per field per update, so that no later proof unfolds a record update. -/

namespace Sys2Proof.Machine

section StateFields

variable (s : State)

@[simp] theorem State.logEvent_config (e : PortEvent) : (s.logEvent e).config = s.config := rfl
@[simp] theorem State.logEvent_regs (e : PortEvent) : (s.logEvent e).regs = s.regs := rfl
@[simp] theorem State.logEvent_hostIn (e : PortEvent) : (s.logEvent e).hostIn = s.hostIn := rfl
@[simp] theorem State.logEvent_bufAnswers (e : PortEvent) : (s.logEvent e).bufAnswers = s.bufAnswers := rfl
@[simp] theorem State.logEvent_buffer (e : PortEvent) : (s.logEvent e).buffer = s.buffer := rfl
@[simp] theorem State.logEvent_portLog (e : PortEvent) : (s.logEvent e).portLog = s.portLog ++ [e] := rfl

@[simp] theorem State.respond_config (st : Status) (data : List Word) : (s.respond st data).config = s.config := rfl
@[simp] theorem State.respond_regs (st : Status) (data : List Word) : (s.respond st data).regs = s.regs := rfl
@[simp] theorem State.respond_hostIn (st : Status) (data : List Word) : (s.respond st data).hostIn = s.hostIn := rfl
@[simp] theorem State.respond_bufAnswers (st : Status) (data : List Word) : (s.respond st data).bufAnswers = s.bufAnswers := rfl
@[simp] theorem State.respond_buffer (st : Status) (data : List Word) : (s.respond st data).buffer = s.buffer := rfl
@[simp] theorem State.respond_portLog (st : Status) (data : List Word) : (s.respond st data).portLog = s.portLog ++ [.response (st.word :: data)] := rfl

@[simp] theorem State.raiseIllegal_config (op : BitVec 4) : (s.raiseIllegal op).config = s.config := rfl
@[simp] theorem State.raiseIllegal_regs (op : BitVec 4) : (s.raiseIllegal op).regs = s.regs := rfl
@[simp] theorem State.raiseIllegal_hostIn (op : BitVec 4) : (s.raiseIllegal op).hostIn = s.hostIn := rfl
@[simp] theorem State.raiseIllegal_bufAnswers (op : BitVec 4) : (s.raiseIllegal op).bufAnswers = s.bufAnswers := rfl
@[simp] theorem State.raiseIllegal_buffer (op : BitVec 4) : (s.raiseIllegal op).buffer = s.buffer := rfl
@[simp] theorem State.raiseIllegal_portLog (op : BitVec 4) : (s.raiseIllegal op).portLog = s.portLog ++ [.response ((illegalStatus op).word :: illegalData op)] := rfl

@[simp] theorem State.answering_config (ws : List Word) : (s.answering ws).config = s.config := rfl
@[simp] theorem State.answering_regs (ws : List Word) : (s.answering ws).regs = s.regs := rfl
@[simp] theorem State.answering_hostIn (ws : List Word) : (s.answering ws).hostIn = s.hostIn := rfl
@[simp] theorem State.answering_bufAnswers (ws : List Word) : (s.answering ws).bufAnswers = s.bufAnswers := rfl
@[simp] theorem State.answering_buffer (ws : List Word) : (s.answering ws).buffer = s.buffer := rfl
@[simp] theorem State.answering_portLog (ws : List Word) : (s.answering ws).portLog = s.portLog ++ [.response ws] := rfl

@[simp] theorem State.withFetchWord_config (nbits w : Nat) : (s.withFetchWord nbits w).config = s.config := rfl
@[simp] theorem State.withFetchWord_regs (nbits w : Nat) : (s.withFetchWord nbits w).regs = s.regs := rfl
@[simp] theorem State.withFetchWord_hostIn (nbits w : Nat) : (s.withFetchWord nbits w).hostIn = tablePacket nbits w ++ s.hostIn := rfl
@[simp] theorem State.withFetchWord_bufAnswers (nbits w : Nat) : (s.withFetchWord nbits w).bufAnswers = s.bufAnswers := rfl
@[simp] theorem State.withFetchWord_buffer (nbits w : Nat) : (s.withFetchWord nbits w).buffer = s.buffer := rfl
@[simp] theorem State.withFetchWord_portLog (nbits w : Nat) : (s.withFetchWord nbits w).portLog = s.portLog := rfl

@[simp] theorem restartedState_config (f : Frame) : (restartedState s f).config = s.config := rfl
@[simp] theorem restartedState_regs (f : Frame) : (restartedState s f).regs = restartRegisters f s.regs := rfl
@[simp] theorem restartedState_hostIn (f : Frame) : (restartedState s f).hostIn = s.hostIn := rfl
@[simp] theorem restartedState_bufAnswers (f : Frame) : (restartedState s f).bufAnswers = s.bufAnswers.tail := rfl
@[simp] theorem restartedState_buffer (f : Frame) : (restartedState s f).buffer = none := rfl
@[simp] theorem restartedState_portLog (f : Frame) : (restartedState s f).portLog = s.portLog ++ [.bufRemove] := rfl

/-- A response is one more event on the host port. -/
theorem State.respond_eq_answering (st : Status) (data : List Word) :
    s.respond st data = s.answering (st.word :: data) := rfl

/-- `raise Illegal` is a response and nothing else. -/
theorem State.raiseIllegal_eq_answering (op : BitVec 4) :
    s.raiseIllegal op = s.answering ((illegalStatus op).word :: illegalData op) := rfl

end StateFields

section RegisterFields

variable (c : Config) (f : Frame) (r : Registers)

@[simp] theorem resetCounters_ifaceIndex : (resetCounters r).ifaceIndex = r.ifaceIndex := rfl
@[simp] theorem resetCounters_tid : (resetCounters r).tid = r.tid := rfl
@[simp] theorem resetCounters_nextFrameIndex : (resetCounters r).nextFrameIndex = 0 := rfl
@[simp] theorem resetCounters_bufferWritePos : (resetCounters r).bufferWritePos = 0 := rfl
@[simp] theorem resetCounters_thisTransferMonotonicTs : (resetCounters r).thisTransferMonotonicTs = r.thisTransferMonotonicTs := rfl
@[simp] theorem resetCounters_prevTransferMonotonicTs : (resetCounters r).prevTransferMonotonicTs = r.prevTransferMonotonicTs := rfl
@[simp] theorem resetCounters_firstFrameUtcTs : (resetCounters r).firstFrameUtcTs = r.firstFrameUtcTs := rfl
@[simp] theorem resetCounters_thisTransferCrc : (resetCounters r).thisTransferCrc = r.thisTransferCrc := rfl
@[simp] theorem resetCounters_transferInterval : (resetCounters r).transferInterval = r.transferInterval := rfl

@[simp] theorem prepareForNextTransfer_ifaceIndex : (prepareForNextTransfer c r).ifaceIndex = r.ifaceIndex := rfl
@[simp] theorem prepareForNextTransfer_tid : (prepareForNextTransfer c r).tid = tidIncrement c r.tid := rfl
@[simp] theorem prepareForNextTransfer_nextFrameIndex : (prepareForNextTransfer c r).nextFrameIndex = 0 := rfl
@[simp] theorem prepareForNextTransfer_bufferWritePos : (prepareForNextTransfer c r).bufferWritePos = 0 := rfl
@[simp] theorem prepareForNextTransfer_thisTransferMonotonicTs : (prepareForNextTransfer c r).thisTransferMonotonicTs = r.thisTransferMonotonicTs := rfl
@[simp] theorem prepareForNextTransfer_prevTransferMonotonicTs : (prepareForNextTransfer c r).prevTransferMonotonicTs = r.prevTransferMonotonicTs := rfl
@[simp] theorem prepareForNextTransfer_firstFrameUtcTs : (prepareForNextTransfer c r).firstFrameUtcTs = r.firstFrameUtcTs := rfl
@[simp] theorem prepareForNextTransfer_thisTransferCrc : (prepareForNextTransfer c r).thisTransferCrc = r.thisTransferCrc := rfl
@[simp] theorem prepareForNextTransfer_transferInterval : (prepareForNextTransfer c r).transferInterval = r.transferInterval := rfl

@[simp] theorem restartRegisters_ifaceIndex : (restartRegisters f r).ifaceIndex = f.ifaceIndex := rfl
@[simp] theorem restartRegisters_tid : (restartRegisters f r).tid = f.transferId := rfl
@[simp] theorem restartRegisters_nextFrameIndex : (restartRegisters f r).nextFrameIndex = 0 := rfl
@[simp] theorem restartRegisters_bufferWritePos : (restartRegisters f r).bufferWritePos = 0 := rfl
@[simp] theorem restartRegisters_thisTransferMonotonicTs : (restartRegisters f r).thisTransferMonotonicTs = r.thisTransferMonotonicTs := rfl
@[simp] theorem restartRegisters_prevTransferMonotonicTs : (restartRegisters f r).prevTransferMonotonicTs = r.prevTransferMonotonicTs := rfl
@[simp] theorem restartRegisters_firstFrameUtcTs : (restartRegisters f r).firstFrameUtcTs = r.firstFrameUtcTs := rfl
@[simp] theorem restartRegisters_thisTransferCrc : (restartRegisters f r).thisTransferCrc = 0 := rfl
@[simp] theorem restartRegisters_transferInterval : (restartRegisters f r).transferInterval = r.transferInterval := rfl

@[simp] theorem advanceWritePos_ifaceIndex (n : Nat) : (advanceWritePos n r).ifaceIndex = r.ifaceIndex := rfl
@[simp] theorem advanceWritePos_tid (n : Nat) : (advanceWritePos n r).tid = r.tid := rfl
@[simp] theorem advanceWritePos_nextFrameIndex (n : Nat) : (advanceWritePos n r).nextFrameIndex = r.nextFrameIndex := rfl
@[simp] theorem advanceWritePos_bufferWritePos (n : Nat) : (advanceWritePos n r).bufferWritePos = r.bufferWritePos + BitVec.ofNat 16 n := rfl
@[simp] theorem advanceWritePos_thisTransferMonotonicTs (n : Nat) : (advanceWritePos n r).thisTransferMonotonicTs = r.thisTransferMonotonicTs := rfl
@[simp] theorem advanceWritePos_prevTransferMonotonicTs (n : Nat) : (advanceWritePos n r).prevTransferMonotonicTs = r.prevTransferMonotonicTs := rfl
@[simp] theorem advanceWritePos_firstFrameUtcTs (n : Nat) : (advanceWritePos n r).firstFrameUtcTs = r.firstFrameUtcTs := rfl
@[simp] theorem advanceWritePos_thisTransferCrc (n : Nat) : (advanceWritePos n r).thisTransferCrc = r.thisTransferCrc := rfl
@[simp] theorem advanceWritePos_transferInterval (n : Nat) : (advanceWritePos n r).transferInterval = r.transferInterval := rfl

@[simp] theorem captureCrc_ifaceIndex : (captureCrc f r).ifaceIndex = r.ifaceIndex := rfl
@[simp] theorem captureCrc_tid : (captureCrc f r).tid = r.tid := rfl
@[simp] theorem captureCrc_nextFrameIndex : (captureCrc f r).nextFrameIndex = r.nextFrameIndex := rfl
@[simp] theorem captureCrc_bufferWritePos : (captureCrc f r).bufferWritePos = r.bufferWritePos := rfl
@[simp] theorem captureCrc_thisTransferMonotonicTs : (captureCrc f r).thisTransferMonotonicTs = r.thisTransferMonotonicTs := rfl
@[simp] theorem captureCrc_prevTransferMonotonicTs : (captureCrc f r).prevTransferMonotonicTs = r.prevTransferMonotonicTs := rfl
@[simp] theorem captureCrc_firstFrameUtcTs : (captureCrc f r).firstFrameUtcTs = r.firstFrameUtcTs := rfl
@[simp] theorem captureCrc_thisTransferCrc : (captureCrc f r).thisTransferCrc = if f.isFirstFrame then extractCrc f.payload else r.thisTransferCrc := rfl
@[simp] theorem captureCrc_transferInterval : (captureCrc f r).transferInterval = r.transferInterval := rfl

@[simp] theorem captureTimestamps_ifaceIndex : (captureTimestamps f r).ifaceIndex = r.ifaceIndex := rfl
@[simp] theorem captureTimestamps_tid : (captureTimestamps f r).tid = r.tid := rfl
@[simp] theorem captureTimestamps_nextFrameIndex : (captureTimestamps f r).nextFrameIndex = r.nextFrameIndex := rfl
@[simp] theorem captureTimestamps_bufferWritePos : (captureTimestamps f r).bufferWritePos = r.bufferWritePos := rfl
@[simp] theorem captureTimestamps_thisTransferMonotonicTs : (captureTimestamps f r).thisTransferMonotonicTs = if f.isFirstFrame then f.monotonicTimestamp else r.thisTransferMonotonicTs := rfl
@[simp] theorem captureTimestamps_prevTransferMonotonicTs : (captureTimestamps f r).prevTransferMonotonicTs = r.prevTransferMonotonicTs := rfl
@[simp] theorem captureTimestamps_firstFrameUtcTs : (captureTimestamps f r).firstFrameUtcTs = if f.isFirstFrame then f.utcTimestamp else r.firstFrameUtcTs := rfl
@[simp] theorem captureTimestamps_thisTransferCrc : (captureTimestamps f r).thisTransferCrc = r.thisTransferCrc := rfl
@[simp] theorem captureTimestamps_transferInterval : (captureTimestamps f r).transferInterval = r.transferInterval := rfl

@[simp] theorem updateTransferTimings_ifaceIndex : (updateTransferTimings c r).ifaceIndex = r.ifaceIndex := rfl
@[simp] theorem updateTransferTimings_tid : (updateTransferTimings c r).tid = r.tid := rfl
@[simp] theorem updateTransferTimings_nextFrameIndex : (updateTransferTimings c r).nextFrameIndex = r.nextFrameIndex := rfl
@[simp] theorem updateTransferTimings_bufferWritePos : (updateTransferTimings c r).bufferWritePos = r.bufferWritePos := rfl
@[simp] theorem updateTransferTimings_thisTransferMonotonicTs : (updateTransferTimings c r).thisTransferMonotonicTs = r.thisTransferMonotonicTs := rfl
@[simp] theorem updateTransferTimings_prevTransferMonotonicTs : (updateTransferTimings c r).prevTransferMonotonicTs = r.thisTransferMonotonicTs := rfl
@[simp] theorem updateTransferTimings_transferInterval : (updateTransferTimings c r).transferInterval = trackedInterval c r := rfl
@[simp] theorem updateTransferTimings_firstFrameUtcTs : (updateTransferTimings c r).firstFrameUtcTs = r.firstFrameUtcTs := rfl
@[simp] theorem updateTransferTimings_thisTransferCrc : (updateTransferTimings c r).thisTransferCrc = r.thisTransferCrc := rfl

@[simp] theorem abortReset_ifaceIndex : (abortReset c r).ifaceIndex = r.ifaceIndex := rfl
@[simp] theorem abortReset_tid : (abortReset c r).tid = tidAfterAbort c r.tid := rfl
@[simp] theorem abortReset_nextFrameIndex : (abortReset c r).nextFrameIndex = 0 := rfl
@[simp] theorem abortReset_bufferWritePos : (abortReset c r).bufferWritePos = 0 := rfl
@[simp] theorem abortReset_thisTransferMonotonicTs : (abortReset c r).thisTransferMonotonicTs = r.thisTransferMonotonicTs := rfl
@[simp] theorem abortReset_prevTransferMonotonicTs : (abortReset c r).prevTransferMonotonicTs = r.prevTransferMonotonicTs := rfl
@[simp] theorem abortReset_firstFrameUtcTs : (abortReset c r).firstFrameUtcTs = r.firstFrameUtcTs := rfl
@[simp] theorem abortReset_thisTransferCrc : (abortReset c r).thisTransferCrc = r.thisTransferCrc := rfl
@[simp] theorem abortReset_transferInterval : (abortReset c r).transferInterval = r.transferInterval := rfl

@[simp] theorem completeSingleFrame_ifaceIndex : (completeSingleFrame c r).ifaceIndex = r.ifaceIndex := rfl
@[simp] theorem completeSingleFrame_tid : (completeSingleFrame c r).tid = tidIncrement c r.tid := rfl
@[simp] theorem completeSingleFrame_nextFrameIndex : (completeSingleFrame c r).nextFrameIndex = 0 := rfl
@[simp] theorem completeSingleFrame_bufferWritePos : (completeSingleFrame c r).bufferWritePos = 0 := rfl
@[simp] theorem completeSingleFrame_thisTransferMonotonicTs : (completeSingleFrame c r).thisTransferMonotonicTs = r.thisTransferMonotonicTs := rfl
@[simp] theorem completeSingleFrame_prevTransferMonotonicTs : (completeSingleFrame c r).prevTransferMonotonicTs = r.thisTransferMonotonicTs := rfl
@[simp] theorem completeSingleFrame_firstFrameUtcTs : (completeSingleFrame c r).firstFrameUtcTs = r.firstFrameUtcTs := rfl
@[simp] theorem completeSingleFrame_thisTransferCrc : (completeSingleFrame c r).thisTransferCrc = 0 := rfl
@[simp] theorem completeSingleFrame_transferInterval : (completeSingleFrame c r).transferInterval = trackedInterval c r := rfl

/-- RESET writes the power-on values (spec/70_reset_and_hazards.md R220). -/
theorem resetRegisters_eq : resetRegisters c = Registers.reset c := rfl

end RegisterFields

end Sys2Proof.Machine
end

