-- ==== Sys2Proof/Laws/Ops.lean ====
section
/-! SUPPORT. For each shared operation, one lemma that says once everything it can do. -/

namespace Sys2Proof.Machine

/-! The buffer port. -/

/-- An answer is taken exactly when one is left. -/
theorem takeAnswer_eq_some {s s' : State} {a : BufAnswer} :
    s.takeAnswer = some (a, s') ↔ ∃ rest, s.bufAnswers = a :: rest ∧ s' = { s with bufAnswers := rest } := by
  unfold State.takeAnswer
  split
  · next h => simp [h]
  · next b rest h =>
    rw [h]
    constructor
    · rintro ⟨⟩; exact ⟨_, rfl, rfl⟩
    · rintro ⟨_, hEq, rfl⟩; cases hEq; rfl

theorem takeAnswer_eq_none {s : State} : s.takeAnswer = none ↔ s.bufAnswers = [] := by
  unfold State.takeAnswer
  split <;> simp_all

/-- BufRemove: one answer taken, the buffer discarded, the transaction logged (spec/20_memory.md R52). -/
theorem bufRemove_eq_some {s s' : State} :
    s.bufRemove = some s' ↔ ∃ a rest, s.bufAnswers = a :: rest ∧
      s' = { s with bufAnswers := rest, buffer := none, portLog := s.portLog ++ [.bufRemove] } := by
  simp only [State.bufRemove, Option.map_eq_some_iff, Prod.exists, takeAnswer_eq_some]
  constructor
  · rintro ⟨a, _, ⟨rest, h, rfl⟩, rfl⟩; exact ⟨a, rest, h, rfl⟩
  · rintro ⟨a, rest, h, rfl⟩; exact ⟨a, _, ⟨rest, h, rfl⟩, rfl⟩

theorem bufRemove_eq_none {s : State} : s.bufRemove = none ↔ s.bufAnswers = [] := by
  simp [State.bufRemove, takeAnswer_eq_none]

/-- BufAccess (R53). -/
theorem bufAccess_eq_some {s s' : State} {p : Presence} :
    s.bufAccess = some (p, s') ↔ ∃ a rest, s.bufAnswers = a :: rest ∧ p = a.presence ∧
      s' = { s with bufAnswers := rest, buffer := accessedBuffer s.buffer p,
                    portLog := s.portLog ++ [.bufAccess p] } := by
  simp only [State.bufAccess, Option.map_eq_some_iff, Prod.exists, takeAnswer_eq_some, Prod.mk.injEq]
  constructor
  · rintro ⟨a, _, ⟨rest, h, rfl⟩, rfl, rfl⟩; exact ⟨a, rest, h, rfl, rfl⟩
  · rintro ⟨a, rest, h, rfl, rfl⟩; exact ⟨a, _, ⟨rest, h, rfl⟩, rfl, rfl⟩

theorem bufAccess_eq_none {s : State} : s.bufAccess = none ↔ s.bufAnswers = [] := by
  simp [State.bufAccess, takeAnswer_eq_none]

/-- BufCreate (R54). -/
theorem bufCreate_eq_some {s s' : State} {p : Presence} :
    s.bufCreate = some (p, s') ↔ ∃ a rest, s.bufAnswers = a :: rest ∧ p = a.presence ∧
      s' = { s with bufAnswers := rest, buffer := createdBuffer p,
                    portLog := s.portLog ++ [.bufCreate p] } := by
  simp only [State.bufCreate, Option.map_eq_some_iff, Prod.exists, takeAnswer_eq_some, Prod.mk.injEq]
  constructor
  · rintro ⟨a, _, ⟨rest, h, rfl⟩, rfl, rfl⟩; exact ⟨a, rest, h, rfl, rfl⟩
  · rintro ⟨a, rest, h, rfl, rfl⟩; exact ⟨a, _, ⟨rest, h, rfl⟩, rfl, rfl⟩

theorem bufCreate_eq_none {s : State} : s.bufCreate = none ↔ s.bufAnswers = [] := by
  simp [State.bufCreate, takeAnswer_eq_none]

/-- BufWrite (R55, R57, R58). -/
theorem bufWrite_eq_some {s s' : State} {offset : BitVec 16} {bytes : List Byte} {r : BitVec 32} :
    s.bufWrite offset bytes = some (r, s') ↔ ∃ a rest, s.bufAnswers = a :: rest ∧ r = a.written ∧
      s' = { s with bufAnswers := rest, buffer := writtenBuffer s.buffer offset bytes r,
                    portLog := s.portLog ++ [.bufWrite offset bytes r] } := by
  simp only [State.bufWrite, Option.map_eq_some_iff, Prod.exists, takeAnswer_eq_some, Prod.mk.injEq]
  constructor
  · rintro ⟨a, _, ⟨rest, h, rfl⟩, rfl, rfl⟩; exact ⟨a, rest, h, rfl, rfl⟩
  · rintro ⟨a, rest, h, rfl, rfl⟩; exact ⟨a, _, ⟨rest, h, rfl⟩, rfl, rfl⟩

theorem bufWrite_eq_none {s : State} {offset : BitVec 16} {bytes : List Byte} :
    s.bufWrite offset bytes = none ↔ s.bufAnswers = [] := by
  simp [State.bufWrite, takeAnswer_eq_none]

theorem writeSucceeds_iff {answer : BitVec 32} {n : Nat} :
    writeSucceeds answer n = true ↔ answer.toInt = (n : Int) := by
  simp [writeSucceeds]

/-- The known bytes after a successful write (R58). -/
theorem writtenBuffer_of_success {m : Option Memory} {offset : BitVec 16} {bytes : List Byte} {answer : BitVec 32}
    (h : answer.toInt = (bytes.length : Int)) :
    writtenBuffer m offset bytes answer = some (Memory.writeBytes (m.getD []) offset.toNat bytes) := by
  simp [writtenBuffer, writeSucceeds, h]

/-- Acquisition: PRESENT at once, or NONE and then BufCreate's answer (spec/41_validation_and_reassembly.md R139). -/
theorem bufAcquire_cases {s s' : State} {p : Presence} (h : s.bufAcquire = some (p, s')) :
    (p = .present ∧ s.bufAccess = some (.present, s')) ∨
    (∃ s1, s.bufAccess = some (.absent, s1) ∧ s1.bufCreate = some (p, s')) := by
  unfold State.bufAcquire at h
  split at h
  · cases h
  · next s1 hA => cases h; exact .inl ⟨rfl, hA⟩
  · next s1 hA => exact .inr ⟨s1, hA, h⟩

/-! Transfer-ID arithmetic. -/

theorem forwardDistance_lt (c : Config) (a b : BitVec 8) : forwardDistance c a b < 2 ^ c.bitlen :=
  Nat.mod_lt _ (Nat.two_pow_pos _)

/-- The forward distance is the residue of the difference (spec/40_tid_and_timing.md R100). -/
theorem forwardDistance_eq (c : Config) (a b : BitVec 8) : (forwardDistance c a b : Int) = tidDistance c a b := by
  have hle : a.toNat % 2 ^ c.bitlen ≤ 2 ^ c.bitlen := (Nat.mod_lt _ (Nat.two_pow_pos _)).le
  unfold forwardDistance tidDistance
  push_cast [Nat.cast_sub hle]
  rw [show (b.toNat : Int) + (2 ^ c.bitlen - (a.toNat : Int) % 2 ^ c.bitlen)
      = b.toNat - (a.toNat : Int) % 2 ^ c.bitlen + 2 ^ c.bitlen by ring, Int.add_emod_right, Int.sub_emod_emod]

theorem tidRel_eq_same {c : Config} {cur inc : BitVec 8} : tidRel c cur inc = .same ↔ SameTid c cur inc := by
  unfold tidRel SameTid
  rw [← forwardDistance_eq]
  split <;> [simp_all; (split <;> simp_all)]

theorem tidRel_eq_future {c : Config} {cur inc : BitVec 8} : tidRel c cur inc = .future ↔ FutureTid c cur inc := by
  have hHalf : ((half c : Nat) : Int) = (2 : Int) ^ (c.bitlen - 1) := by simp [half]
  unfold tidRel FutureTid
  rw [← forwardDistance_eq, ← hHalf]
  split
  · simp_all
  · split <;> simp_all <;> omega

theorem tidIncrement_eq (c : Config) (a : BitVec 8) : tidIncrement c a = followingTid c a := rfl

theorem tidAfterAbort_eq (c : Config) (a : BitVec 8) : tidAfterAbort c a = abortedTid c a := rfl

/-! Timing. -/

theorem isTimedOut_iff {c : Config} {r : Registers} {ts : BitVec 64} :
    isTimedOut c r ts = true ↔ TimedOut c r ts := by
  unfold isTimedOut TimedOut half
  split
  · simp; omega
  · simp; omega

theorem isIfaceTimedOut_iff {r : Registers} {ts : BitVec 64} :
    isIfaceTimedOut r ts = true ↔ IfaceTimedOut r ts := by
  simp [isIfaceTimedOut]

/-- The interval after UpdateTransferTimings (R110). -/
theorem trackedInterval_eq (c : Config) (r : Registers) :
    trackedInterval c r = completedInterval c r r.thisTransferMonotonicTs := rfl

/-- The average of two numbers in a range is in the range (R111). -/
theorem smoothedInterval_bounds {lo hi a x : Nat} (ha : lo ≤ a ∧ a ≤ hi) (hx : lo ≤ x ∧ x ≤ hi) :
    lo ≤ smoothedInterval a x ∧ smoothedInterval a x ≤ hi := by
  unfold smoothedInterval; omega

/-! The decision and the checks of ADD_FRAME. -/

theorem addFrameIllegal_iff {c : Config} {f : Frame} : addFrameIllegal c f = true ↔ ¬f.InRange c := by
  simp [addFrameIllegal, Frame.InRange]; omega

theorem isStale_iff {r : Registers} {ts : BitVec 64} :
    isStale r ts = true ↔ ¬(r.prevTransferMonotonicTs.toNat ≤ ts.toNat ∧ r.thisTransferMonotonicTs.toNat ≤ ts.toNat) := by
  simp [isStale]; omega

/-- The restart decision (spec/42_add_frame.md R154). -/
theorem needRestart_iff {s : State} {f : Frame} :
    (conditionsOf s.config s.regs f).needRestart = true ↔ NeedRestart s f := by
  simp [conditionsOf, Conditions.needRestart, NeedRestart, isTimedOut_iff, isIfaceTimedOut_iff, ← tidRel_eq_future,
    or_assoc, and_assoc]

/-- The action of R155. -/
theorem action_eq {s : State} {f : Frame} :
    (conditionsOf s.config s.regs f).action =
      if NeedRestart s f then (if f.isFirstFrame then .restartContinue else .restartDrop) else .proceed := by
  simp only [Conditions.action, needRestart_iff]
  rfl

/-- The restart of R156 takes one answer. -/
theorem restart_eq_some {f : Frame} {s s' : State} :
    restart f s = some s' ↔ s.bufAnswers ≠ [] ∧ s' = restartedState s f := by
  unfold restart
  cases h : s.bufRemove with
  | none => simp_all [bufRemove_eq_none]
  | some s1 =>
    obtain ⟨a, rest, hAns, rfl⟩ := bufRemove_eq_some.mp h
    simp [hAns, restartedState, restartRegisters, eq_comm]

theorem restart_eq_none {f : Frame} {s : State} : restart f s = none ↔ s.bufAnswers = [] := by
  unfold restart
  cases h : s.bufRemove with
  | none => simpa using bufRemove_eq_none.mp h
  | some s1 => obtain ⟨a, rest, hAns, -⟩ := bufRemove_eq_some.mp h; simp [hAns]

/-- Validate passes exactly when its five conditions hold (spec/41_validation_and_reassembly.md R125). -/
theorem validate_eq_valid {s : State} {f : Frame} :
    validate s.config s.regs f = .valid ↔ Validated s f := by
  unfold validate Validated
  rw [← tidRel_eq_same]
  repeat' split
  all_goals simp_all

/-- The CRC extracted is the two bytes, the first one low (spec/20_memory.md R58). -/
theorem extractCrc_eq (p : List Byte) : extractCrc p = p.getD 1 0 ++ p.getD 0 0 := by
  unfold extractCrc
  generalize p.getD 0 0 = b0
  generalize p.getD 1 0 = b1
  ext i hi
  rw [← BitVec.getLsbD_eq_getElem, ← BitVec.getLsbD_eq_getElem, BitVec.getLsbD_append]
  by_cases h : i < 8
  · simp [h, hi]
  · simp [h, hi, BitVec.getLsbD_of_ge b0 i (by omega)]

theorem payloadSlice_eq (f : Frame) : payloadSlice f = writtenBytes f := rfl

/-- A command's outcome is a next state exactly when every transaction was answered. -/
theorem answered_eq_next {r : Option State} {t : State} : answered r = .next t ↔ r = some t := by
  cases r <;> simp [answered]

end Sys2Proof.Machine
end

