-- ==== Sys2Proof/Laws/Reassembly.lean ====
section
/-! SUPPORT. What WritePayload, the two paths of Receive, and Validate can do. -/

namespace Sys2Proof.Machine

/-- Validate's verdict is the first failing check, by the DIAG code it stands for
(spec/41_validation_and_reassembly.md R125). -/
theorem validate_eq_invalid {s : State} {f : Frame} {d : Diag} (h : validate s.config s.regs f = .invalid d) :
    FailsWith s f (d.code.setWidth 32) := by
  unfold validate at h
  split at h
  · cases h; exact .badIface ‹_›
  · next h1 =>
    have h1 := not_not.mp h1
    split at h
    · next h2 => cases h; exact .noCrc h1 h2.1 h2.2.1 h2.2.2
    · next h2 =>
      split at h
      · next h3 => cases h; exact .unterminated h1 h2 h3.1 h3.2
      · next h3 =>
        split at h
        · next h4 => cases h; exact .badIndex h1 h2 h3 h4
        · next h4 =>
          split at h
          · next h5 => cases h; exact .badTid h1 h2 h3 (not_not.mp h4) (fun hs => h5 (tidRel_eq_same.mpr hs))
          · cases h

/-- Only one check is the first that fails. -/
theorem FailsWith.unique {s : State} {f : Frame} {d d' : Word} (h : FailsWith s f d) (h' : FailsWith s f d') :
    d = d' := by
  cases h <;> cases h' <;> simp_all

/-- A frame that fails a check is not validated. -/
theorem FailsWith.not_validated {s : State} {f : Frame} {d : Word} (h : FailsWith s f d) : ¬Validated s f := by
  cases h <;> simp_all [Validated]

/-- The status word of an ADD_FRAME, field by field (spec/30_encoding.md R80). -/
theorem addFrameStatus_word (res : ResultCode) (d : Diag) (b : Bool) :
    (addFrameStatus res d b).word =
      0x1000 ||| res.code.setWidth 32 ||| (d.code.setWidth 32 <<< 4) ||| (if b then 0x100 else 0) := by
  cases res <;> cases d <;> cases b <;> rfl

/-- A buffer is acquired with one or two answers, or none is found with two (R139). -/
theorem bufAcquire_eq_some {s s' : State} {p : Presence} :
    s.bufAcquire = some (p, s') ↔
      (∃ a rest, s.bufAnswers = a :: rest ∧ a.presence = .present ∧ p = .present ∧
        s' = { s with bufAnswers := rest, buffer := some (s.buffer.getD []),
                      portLog := s.portLog ++ [.bufAccess .present] }) ∨
      (∃ a b rest, s.bufAnswers = a :: b :: rest ∧ a.presence = .absent ∧ p = b.presence ∧
        s' = { s with bufAnswers := rest, buffer := createdBuffer p,
                      portLog := s.portLog ++ [.bufAccess .absent, .bufCreate p] }) := by
  unfold State.bufAcquire
  cases hA : s.bufAccess with
  | none =>
    have := bufAccess_eq_none.mp hA
    simp [this]
  | some r =>
    obtain ⟨q, s1⟩ := r
    obtain ⟨a, rest, hAns, rfl, rfl⟩ := bufAccess_eq_some.mp hA
    cases hq : a.presence with
    | present => simp [hAns, hq, accessedBuffer]; grind
    | absent =>
      simp only [bufCreate_eq_some, hAns]
      constructor
      · rintro ⟨b, rest', hRest, rfl, rfl⟩
        exact .inr ⟨a, b, rest', by simp_all, hq, rfl, by simp⟩
      · rintro (⟨a', rest', hEq, hP, -⟩ | ⟨a', b, rest', hEq, -, rfl, rfl⟩)
        · simp_all
        · simp only [List.cons.injEq] at hEq
          exact ⟨b, rest', hEq.2, rfl, by simp⟩

/-- WritePayload: one answer taken, the CRC of a first frame kept, the position advanced on success only (R131,
R132). -/
theorem writePayload_eq_some {f : Frame} {s s' : State} {ok : Bool} :
    writePayload f s = some (ok, s') ↔ ∃ a rest, s.bufAnswers = a :: rest ∧
      ok = writeSucceeds a.written (payloadSlice f).length ∧
      s' = { s with
        regs := if ok then advanceWritePos (payloadSlice f).length (captureCrc f s.regs) else captureCrc f s.regs
        bufAnswers := rest
        buffer := writtenBuffer s.buffer s.regs.bufferWritePos (payloadSlice f) a.written
        portLog := s.portLog ++ [.bufWrite s.regs.bufferWritePos (payloadSlice f) a.written] } := by
  unfold writePayload
  simp only [captureCrc_bufferWritePos]
  cases hW : State.bufWrite { s with regs := captureCrc f s.regs } s.regs.bufferWritePos (payloadSlice f) with
  | none =>
    have := bufWrite_eq_none.mp hW
    simp_all
  | some r =>
    obtain ⟨q, s1⟩ := r
    obtain ⟨a, rest, hAns, rfl, rfl⟩ := bufWrite_eq_some.mp hW
    simp only at hAns
    rw [hAns]
    cases hok : writeSucceeds a.written (payloadSlice f).length <;> simp [hok] <;> grind

/-- The single-frame path takes one answer (R138). -/
theorem receiveSingleFrame_eq_some {s t : State} {res : ResultCode} {d : Diag} :
    receiveSingleFrame s = some (res, d, t) ↔ ∃ a rest, s.bufAnswers = a :: rest ∧ res = .singleFrame ∧ d = .ok ∧
      t = { s with
        regs := completeSingleFrame s.config s.regs
        bufAnswers := rest
        buffer := none
        portLog := s.portLog ++ [.bufRemove] } := by
  unfold receiveSingleFrame
  cases hR : s.bufRemove with
  | none =>
    have := bufRemove_eq_none.mp hR
    simp [this]
  | some s1 =>
    obtain ⟨a, rest, hAns, rfl⟩ := bufRemove_eq_some.mp hR
    simp [hAns]
    grind

/-- The write-failure abort takes one answer (R140). -/
theorem abortWrite_eq_some {s t : State} {res : ResultCode} {d : Diag} :
    abortWrite s = some (res, d, t) ↔ ∃ a rest, s.bufAnswers = a :: rest ∧ res = .notComplete ∧ d = .writeFailed ∧
      t = { s with
        regs := abortReset s.config s.regs
        bufAnswers := rest
        buffer := none
        portLog := s.portLog ++ [.bufRemove] } := by
  unfold abortWrite
  cases hR : s.bufRemove with
  | none =>
    have := bufRemove_eq_none.mp hR
    simp [this]
  | some s1 =>
    obtain ⟨a, rest, hAns, rfl⟩ := bufRemove_eq_some.mp hR
    simp [hAns]
    grind

/-- The state once a buffer is acquired. -/
def acquiredState (s : State) (evs : List PortEvent) (bytes : Memory) (rest : List BufAnswer) : State :=
  { s with bufAnswers := rest, buffer := some bytes, portLog := s.portLog ++ evs }

/-- The state after a BufWrite on the acquired buffer, before the registers move on. -/
def wroteState (f : Frame) (s : State) (evs : List PortEvent) (bytes : Memory) (w : BufAnswer)
    (rest : List BufAnswer) : State :=
  { s with
    regs := captureCrc f s.regs
    bufAnswers := rest
    buffer := writtenBuffer (some bytes) s.regs.bufferWritePos (payloadSlice f) w.written
    portLog := s.portLog ++ evs ++ [.bufWrite s.regs.bufferWritePos (payloadSlice f) w.written] }

/-- Acquisition, in the terms of `Acquires`. -/
theorem bufAcquire_present {s s1 : State} :
    s.bufAcquire = some (.present, s1) ↔ ∃ evs bytes rest, Acquires s evs bytes rest ∧
      s1 = acquiredState s evs bytes rest := by
  rw [bufAcquire_eq_some]
  constructor
  · rintro (⟨a, rest, h, hp, -, rfl⟩ | ⟨a, b, rest, h, hp, hq, rfl⟩)
    · exact ⟨_, _, rest, .inl ⟨a, h, hp, rfl, rfl⟩, rfl⟩
    · exact ⟨_, _, rest, .inr ⟨a, b, h, hp, hq.symm, rfl, rfl⟩, rfl⟩
  · rintro ⟨_, _, rest, ⟨a, h, hp, rfl, rfl⟩ | ⟨a, b, h, hp, hq, rfl, rfl⟩, rfl⟩
    · exact .inl ⟨a, rest, h, hp, rfl, rfl⟩
    · exact .inr ⟨a, b, rest, h, hp, hq.symm, rfl⟩

/-- Everything the multi-frame path of Receive can do (R139 to R143): no buffer, a failed write, or a frame taken. -/
theorem receiveMultiFrame_eq_some {f : Frame} {s t : State} {res : ResultCode} {d : Diag} :
    receiveMultiFrame f s = some (res, d, t) ↔
      (∃ a b rest, s.bufAnswers = a :: b :: rest ∧ a.presence = .absent ∧ b.presence = .absent ∧
        res = .notComplete ∧ d = .noBuffer ∧
        t = { s with
          regs := abortReset s.config s.regs
          bufAnswers := rest
          buffer := none
          portLog := s.portLog ++ [.bufAccess .absent, .bufCreate .absent] }) ∨
      (∃ evs bytes w a rest, Acquires s evs bytes (w :: a :: rest) ∧
        writeSucceeds w.written (payloadSlice f).length = false ∧ res = .notComplete ∧ d = .writeFailed ∧
        t = { wroteState f s evs bytes w rest with
          regs := abortReset s.config (captureCrc f s.regs)
          buffer := none
          portLog := (wroteState f s evs bytes w rest).portLog ++ [.bufRemove] }) ∨
      (∃ evs bytes w rest, Acquires s evs bytes (w :: rest) ∧
        writeSucceeds w.written (payloadSlice f).length = true ∧
        (res, d, t) = takeFrame f { wroteState f s evs bytes w rest with
          regs := advanceWritePos (payloadSlice f).length (captureCrc f s.regs) }) := by
  constructor
  · intro h
    unfold receiveMultiFrame at h
    split at h
    · cases h
    · next s1 hA =>
      cases h
      rcases bufAcquire_eq_some.mp hA with ⟨a, rest, hAns, hp, ⟨⟩, rfl⟩ | ⟨a, b, rest, hAns, hp, hq, rfl⟩
      exact .inl ⟨a, b, rest, hAns, hp, hq.symm, rfl, rfl, rfl⟩
    · next s1 hA =>
      obtain ⟨evs, bytes, rest, hAcq, rfl⟩ := bufAcquire_present.mp hA
      split at h
      · cases h
      · next s2 hW =>
        obtain ⟨w, rest', hAns, hok, rfl⟩ := writePayload_eq_some.mp hW
        obtain ⟨a, rest'', hAns', rfl, rfl, rfl⟩ := abortWrite_eq_some.mp h
        simp only at hAns hAns'
        subst hAns hAns'
        exact .inr (.inl ⟨evs, bytes, w, a, rest'', hAcq, hok.symm, rfl, rfl, rfl⟩)
      · next s2 hW =>
        obtain ⟨w, rest', hAns, hok, rfl⟩ := writePayload_eq_some.mp hW
        simp only [acquiredState] at hAns
        subst hAns
        exact .inr (.inr ⟨evs, bytes, w, rest', hAcq, hok.symm, (Option.some.inj h).symm⟩)
  · rintro (⟨a, b, rest, h, hp, hq, rfl, rfl, rfl⟩ | ⟨evs, bytes, w, a, rest, hAcq, hok, rfl, rfl, rfl⟩ |
      ⟨evs, bytes, w, rest, hAcq, hok, hT⟩)
    · have hA := bufAcquire_eq_some.mpr (.inr ⟨a, b, rest, h, hp, hq.symm, rfl⟩)
      simp [receiveMultiFrame, hA, createdBuffer]
    · have hA := bufAcquire_present.mpr ⟨evs, bytes, _, hAcq, rfl⟩
      have hW := (writePayload_eq_some (f := f) (s := acquiredState s evs bytes (w :: a :: rest))).mpr
        ⟨w, a :: rest, rfl, hok.symm, rfl⟩
      simp only [receiveMultiFrame, hA, hW]
      exact abortWrite_eq_some.mpr ⟨a, rest, rfl, rfl, rfl, rfl⟩
    · have hA := bufAcquire_present.mpr ⟨evs, bytes, _, hAcq, rfl⟩
      have hW := (writePayload_eq_some (f := f) (s := acquiredState s evs bytes (w :: rest))).mpr
        ⟨w, rest, rfl, hok.symm, rfl⟩
      simp only [receiveMultiFrame, hA, hW]
      rw [hT]
      rfl

end Sys2Proof.Machine
end

