-- ==== Sys2Proof/Laws/AddFrame.lean ====
section
/-! SUPPORT. What ADD_FRAME can do: the rejections, restart-and-drop, and what runs from Validate on. -/

namespace Sys2Proof.Machine

/-- Receive is one of its two paths, after the timestamp capture (spec/41_validation_and_reassembly.md R136, R137). -/
theorem receive_eq (f : Frame) (s : State) :
    receive f s = if f.isFirstFrame = true ∧ f.isLastFrame = true
      then receiveSingleFrame { s with regs := capturedRegisters f s.regs }
      else receiveMultiFrame f { s with regs := capturedRegisters f s.regs } := rfl

/-- Validate and then Receive (spec/42_add_frame.md R158). -/
theorem validateAndReceive_eq_some {f : Frame} {b : Bool} {s t : State} :
    validateAndReceive f b s = some t ↔
      (∃ d, validate s.config s.regs f = .invalid d ∧
        t = s.answering [(addFrameStatus .notComplete d b).word]) ∨
      (Validated s f ∧ ∃ res d s1, receive f s = some (res, d, s1) ∧
        t = s1.answering [(addFrameStatus res d b).word]) := by
  unfold validateAndReceive
  cases hV : validate s.config s.regs f with
  | invalid d =>
    have hNot : ¬Validated s f := fun h => by rw [validate_eq_valid.mpr h] at hV; cases hV
    simp [hNot, State.respond_eq_answering, eq_comm]
  | valid =>
    have hVal := validate_eq_valid.mp hV
    cases hR : receive f s with
    | none => simp
    | some r =>
      obtain ⟨res, d, s1⟩ := r
      constructor
      · rintro ⟨⟩; exact .inr ⟨hVal, res, d, s1, rfl, rfl⟩
      · rintro (⟨_, ⟨⟩, -⟩ | ⟨-, _, _, _, ⟨⟩, rfl⟩); rfl

/-- The part after the timestamp preconditions: restart-and-drop, or Validate and Receive in the intake state
(spec/42_add_frame.md R155 to R158). -/
theorem intake_eq_some {f : Frame} {s t : State} :
    intake f s = some t ↔
      (NeedRestart s f ∧ f.isFirstFrame = false ∧ s.bufAnswers ≠ [] ∧
        t = State.answering
          { restartedState s f with
            regs := { (restartedState s f).regs with tid := followingTid s.config f.transferId } } [0x1130]) ∨
      ((NeedRestart s f → f.isFirstFrame = true ∧ s.bufAnswers ≠ []) ∧
        validateAndReceive f (decide (NeedRestart s f)) (intakeState s f) = some t) := by
  unfold intake
  rw [action_eq]
  by_cases hN : NeedRestart s f
  · rw [if_pos hN]
    by_cases hF : f.isFirstFrame = true
    · rw [if_pos hF, decide_eq_true hN]
      simp only [restartAndContinue]
      cases hR : restart f s with
      | none =>
        constructor
        · rintro ⟨⟩
        · rintro (⟨-, -, hAns, -⟩ | ⟨h, -⟩)
          · exact absurd (restart_eq_none.mp hR) hAns
          · exact absurd (restart_eq_none.mp hR) (h hN).2
      | some s1 =>
        obtain ⟨hAns, rfl⟩ := restart_eq_some.mp hR
        rw [intakeState, if_pos hN]
        constructor
        · intro h; exact .inr ⟨fun _ => ⟨hF, hAns⟩, h⟩
        · rintro (⟨-, hF', -, -⟩ | ⟨-, h⟩)
          · rw [hF] at hF'; cases hF'
          · exact h
    · rw [if_neg hF]
      simp only [restartAndDrop]
      cases hR : restart f s with
      | none =>
        constructor
        · rintro ⟨⟩
        · rintro (⟨-, -, hAns, -⟩ | ⟨h, -⟩)
          · exact absurd (restart_eq_none.mp hR) hAns
          · exact absurd (h hN).1 hF
      | some s1 =>
        obtain ⟨hAns, rfl⟩ := restart_eq_some.mp hR
        constructor
        · rintro ⟨⟩; exact .inl ⟨hN, by simpa using hF, hAns, rfl⟩
        · rintro (⟨-, -, -, rfl⟩ | ⟨h, -⟩)
          · rfl
          · exact absurd (h hN).1 hF
  · rw [if_neg hN, decide_eq_false hN, intakeState, if_neg hN]
    constructor
    · intro h; exact .inr ⟨fun h => absurd h hN, h⟩
    · rintro (⟨h, -⟩ | ⟨-, h⟩)
      · exact absurd h hN
      · exact h

/-- Everything ADD_FRAME can do with a next state (R160): ILLEGAL, a timestamp rejection, or the intake. -/
theorem execAddFrame_eq_next {f : Frame} {s t : State} :
    execAddFrame f s = .next t ↔
      (¬f.InRange s.config ∧ t = s.answering [0x10B8]) ∨
      (f.InRange s.config ∧ f.monotonicTimestamp = 0 ∧ t = s.answering [0x1010]) ∨
      (f.InRange s.config ∧ f.monotonicTimestamp ≠ 0 ∧ ¬Admitted s f ∧ t = s.answering [0x1020]) ∨
      (Admitted s f ∧ intake f s = some t) := by
  unfold execAddFrame
  by_cases hL : f.InRange s.config
  · rw [if_neg (fun h => addFrameIllegal_iff.mp h hL)]
    by_cases hZ : f.monotonicTimestamp = 0
    · rw [if_pos hZ]
      constructor
      · rintro ⟨⟩; exact .inr (.inl ⟨hL, hZ, rfl⟩)
      · rintro (⟨h, -⟩ | ⟨-, -, rfl⟩ | ⟨-, h, -⟩ | ⟨h, -⟩)
        · exact absurd hL h
        · rfl
        · exact absurd hZ h
        · exact absurd hZ h.2.1
    · rw [if_neg hZ]
      by_cases hS : isStale s.regs f.monotonicTimestamp = true
      · rw [if_pos hS]
        have hNot : ¬Admitted s f := fun h => isStale_iff.mp hS h.2.2
        constructor
        · rintro ⟨⟩; exact .inr (.inr (.inl ⟨hL, hZ, hNot, rfl⟩))
        · rintro (⟨h, -⟩ | ⟨-, h, -⟩ | ⟨-, -, -, rfl⟩ | ⟨h, -⟩)
          · exact absurd hL h
          · exact absurd h hZ
          · rfl
          · exact absurd h hNot
      · rw [if_neg hS, answered_eq_next]
        have hAdm : Admitted s f := ⟨hL, hZ, by
          by_contra h; exact hS (isStale_iff.mpr h)⟩
        constructor
        · intro h; exact .inr (.inr (.inr ⟨hAdm, h⟩))
        · rintro (⟨h, -⟩ | ⟨-, h, -⟩ | ⟨-, -, h, -⟩ | ⟨-, h⟩)
          · exact absurd hL h
          · exact absurd h hZ
          · exact absurd hAdm h
          · exact h
  · rw [if_pos (addFrameIllegal_iff.mpr hL)]
    constructor
    · rintro ⟨⟩; exact .inl ⟨hL, rfl⟩
    · rintro (⟨-, rfl⟩ | ⟨h, -⟩ | ⟨h, -⟩ | ⟨h, -⟩)
      · rfl
      · exact absurd h hL
      · exact absurd h hL
      · exact absurd h.1 hL

end Sys2Proof.Machine
end

