-- ==== Sys2Proof/Laws/Encoding.lean ====
section
/-! SUPPORT. The small lemmas of the encodings: header fields, packet lengths, bytes and words. -/

namespace Sys2Proof

/-- The high field of an append is its left part. -/
theorem extractLsb'_append_high {n m : Nat} (hi : BitVec n) (lo : BitVec m) :
    (hi ++ lo).extractLsb' m n = hi := by
  apply BitVec.eq_of_getLsbD_eq
  intro i hi'
  simp [BitVec.getLsbD_append, hi']

/-- A field inside the low part of an append is that field of the low part. -/
theorem extractLsb'_append_low {n m k : Nat} (hi : BitVec n) (lo : BitVec m) (start : Nat) (h : start + k ≤ m) :
    (hi ++ lo).extractLsb' start k = lo.extractLsb' start k := by
  apply BitVec.eq_of_getLsbD_eq
  intro i hi'
  simp [BitVec.getLsbD_append, show start + i < m by omega, hi']

/-- A field inside the high part of an append is that field of the high part. -/
theorem extractLsb'_append_above {n m k : Nat} (hi : BitVec n) (lo : BitVec m) (start : Nat) (h : m ≤ start) :
    (hi ++ lo).extractLsb' start k = hi.extractLsb' (start - m) k := by
  apply BitVec.eq_of_getLsbD_eq
  intro i hi'
  simp [BitVec.getLsbD_append, show ¬(start + i < m) by omega, show start + i - m = start - m + i by omega, hi']

theorem headerOp_append (op : BitVec 4) (r : BitVec 28) : headerOp (op ++ r) = op :=
  extractLsb'_append_high op r

theorem headerOp_readReg (op : BitVec 4) (r : BitVec 20) (reg : BitVec 8) : headerOp (op ++ r ++ reg) = op := by
  unfold headerOp
  exact (extractLsb'_append_above (op ++ r) reg 28 (by omega)).trans (extractLsb'_append_high op r)

theorem headerOp_encodeFrameHeader (f : Frame) : headerOp (encodeFrameHeader f) = opAddFrame := by
  unfold headerOp encodeFrameHeader
  apply BitVec.eq_of_getLsbD_eq
  intro i hi
  simp only [BitVec.getLsbD_extractLsb', BitVec.getLsbD_append, hi, decide_true, Bool.true_and]
  simp (disch := omega) [show ¬(28 + i < 4) by omega, show ¬(28 + i - 4 < 8) by omega,
    show ¬(28 + i - 4 - 8 < 8) by omega, show ¬(28 + i - 4 - 8 - 8 < 6) by omega,
    show ¬(28 + i - 4 - 8 - 8 - 6 < 1) by omega, show ¬(28 + i - 4 - 8 - 8 - 6 - 1 < 1) by omega,
    show 28 + i - 4 - 8 - 8 - 6 - 1 - 1 = i by omega]

theorem headerPlen_encodeFrameHeader (f : Frame) : headerPlen (encodeFrameHeader f) = f.payloadLen % 64 := by
  have h : (encodeFrameHeader f).extractLsb' 20 6 = BitVec.ofNat 6 f.payloadLen := by
    unfold encodeFrameHeader
    apply BitVec.eq_of_getLsbD_eq
    intro i hi
    simp only [BitVec.getLsbD_extractLsb', BitVec.getLsbD_append, hi, decide_true, Bool.true_and]
    simp (disch := omega) [show ¬(20 + i < 4) by omega, show ¬(20 + i - 4 < 8) by omega,
      show ¬(20 + i - 4 - 8 < 8) by omega, show 20 + i - 4 - 8 - 8 = i by omega, hi]
  simp [headerPlen, h, BitVec.toNat_ofNat]

/-- The payload words of an encoding are as many as R72 counts. -/
theorem packPayload_length (p : List Byte) : (packPayload p).length = payloadWords p.length := by
  induction p using packPayload.induct <;> (simp_all [packPayload, payloadWords]; try omega)

@[simp] theorem dwordWords_length (d : Dword) : (dwordWords d).length = 2 := rfl

/-- The two words of a 64-bit value make it up again. -/
theorem dwordOfWords_dwordWords (d : Dword) : dwordOfWords (d.extractLsb' 0 32) (d.extractLsb' 32 32) = d := by
  unfold dwordOfWords
  apply BitVec.eq_of_getLsbD_eq
  intro i hi
  rw [BitVec.getLsbD_append]
  by_cases h : i < 32
  · simp [h]
  · simp [h, show 32 + (i - 32) = i by omega, show i - 32 < 32 by omega]

/-- The bytes of a word made of four bytes are those four. -/
theorem wordBytes_wordOfBytes (b0 b1 b2 b3 : Byte) : wordBytes (wordOfBytes b0 b1 b2 b3) = [b0, b1, b2, b3] := by
  have h0 : (wordOfBytes b0 b1 b2 b3).extractLsb' 0 8 = b0 := by
    unfold wordOfBytes
    exact (extractLsb'_append_low _ b0 0 (by omega)).trans (by ext; simp)
  have h1 : (wordOfBytes b0 b1 b2 b3).extractLsb' 8 8 = b1 := by
    unfold wordOfBytes
    exact (extractLsb'_append_above _ b0 8 (by omega)).trans
      ((extractLsb'_append_low _ b1 0 (by omega)).trans (by ext; simp))
  have h2 : (wordOfBytes b0 b1 b2 b3).extractLsb' 16 8 = b2 := by
    unfold wordOfBytes
    exact (extractLsb'_append_above _ b0 16 (by omega)).trans
      ((extractLsb'_append_above _ b1 8 (by omega)).trans
        ((extractLsb'_append_low _ b2 0 (by omega)).trans (by ext; simp)))
  have h3 : (wordOfBytes b0 b1 b2 b3).extractLsb' 24 8 = b3 := by
    unfold wordOfBytes
    exact (extractLsb'_append_above _ b0 24 (by omega)).trans
      ((extractLsb'_append_above _ b1 16 (by omega)).trans
        ((extractLsb'_append_above _ b2 8 (by omega)).trans (by ext; simp)))
  simp [wordBytes, h0, h1, h2, h3]

/-- Byte `k` of the bytes of words is byte `k mod 4` of word `k/4` (R70). -/
theorem flatMap_wordBytes_getElem? (ws : List Word) (k : Nat) :
    (ws.flatMap wordBytes)[k]? = ws[k / 4]?.map fun word => word.extractLsb' (8 * (k % 4)) 8 := by
  induction ws generalizing k with
  | nil => simp
  | cons w ws ih =>
    rw [List.flatMap_cons]
    by_cases h : k < 4
    · have : k = 0 ∨ k = 1 ∨ k = 2 ∨ k = 3 := by omega
      rcases this with rfl | rfl | rfl | rfl <;> rfl
    · obtain ⟨j, rfl⟩ : ∃ j, k = j + 4 := ⟨k - 4, by omega⟩
      rw [List.getElem?_append_right (by simp [wordBytes]), show (wordBytes w).length = 4 from rfl,
        show j + 4 - 4 = j by omega, ih, show (j + 4) / 4 = j / 4 + 1 by omega, show (j + 4) % 4 = j % 4 by omega,
        List.getElem?_cons_succ]

theorem flatMap_wordBytes_length (ws : List Word) : (ws.flatMap wordBytes).length = 4 * ws.length := by
  induction ws with
  | nil => rfl
  | cons w ws ih => simp [List.flatMap_cons, wordBytes] at *; omega

/-- A payload unpacked from as many words as R72 counts has the length asked for. -/
theorem unpackPayload_length (n : Nat) (ws : List Word) (h : ws.length = payloadWords n) :
    (unpackPayload n ws).length = n := by
  unfold unpackPayload payloadWords at *
  rw [List.length_take, flatMap_wordBytes_length]
  omega

/-- Byte `k` of an unpacked payload, whatever the padding (R75). -/
theorem unpackPayload_getElem? {n k : Nat} (ws : List Word) (h : k < n) :
    (unpackPayload n ws)[k]? = ws[k / 4]?.map fun word => word.extractLsb' (8 * (k % 4)) 8 := by
  rw [unpackPayload, List.getElem?_take_of_lt h, flatMap_wordBytes_getElem?]

end Sys2Proof
end

