-- ==== Sys2Proof/Laws/PerInstr.lean ====
section
/-! SUPPORT. The family PacketForm: the encoding of every instruction begins with a header that carries its OP and asks
for exactly the packet's length (spec/30_encoding.md R71, R72). -/

namespace Sys2Proof.Laws

/-- The packet of `i` has a header with the OP of `i`, and the header's packet length is the packet's. -/
def PacketForm.Statement (i : Instr) : Prop :=
  ∃ header ops, encode i = header :: ops ∧ headerOp header = i.op ∧
    (i.Encodable → packetLength header = (encode i).length)

theorem PacketForm.nop (r : BitVec 28) : PacketForm.Statement (.nop r) :=
  ⟨opNop ++ r, [], rfl, headerOp_append _ _, fun _ => by
    simp [packetLength, headerOp_append, encode, opNop, opAddFrame, opCheckTimeout]⟩

theorem PacketForm.addFrame (f : Frame) : PacketForm.Statement (.addFrame f) :=
  ⟨encodeFrameHeader f, _, rfl, headerOp_encodeFrameHeader f, fun h => by
    have hLen : f.payload.length ≤ 63 := h
    simp [packetLength, headerOp_encodeFrameHeader, headerPlen_encodeFrameHeader, encode, packPayload_length,
      Frame.payloadLen, Nat.mod_eq_of_lt (show f.payload.length < 64 by omega)]
    omega⟩

theorem PacketForm.checkTimeout (r : BitVec 28) (ts : BitVec 64) : PacketForm.Statement (.checkTimeout r ts) :=
  ⟨opCheckTimeout ++ r, _, rfl, headerOp_append _ _, fun _ => by
    simp [packetLength, headerOp_append, encode, opAddFrame, opCheckTimeout]⟩

theorem PacketForm.readReg (r : BitVec 20) (reg : BitVec 8) : PacketForm.Statement (.readReg r reg) :=
  ⟨opReadReg ++ r ++ reg, [], rfl, headerOp_readReg _ _ _, fun _ => by
    simp [packetLength, headerOp_readReg, encode, opReadReg, opAddFrame, opCheckTimeout]⟩

theorem PacketForm.reset (r : BitVec 28) : PacketForm.Statement (.reset r) :=
  ⟨opReset ++ r, [], rfl, headerOp_append _ _, fun _ => by
    simp [packetLength, headerOp_append, encode, opReset, opAddFrame, opCheckTimeout]⟩

end Sys2Proof.Laws
end

