-- ==== Sys2Proof/Laws/Run.lean ====
section
/-! SUPPORT. What a step can do, and runs of the machine, one step at a time. -/

namespace Sys2Proof.Machine

/-- Everything a step can do with a next state: nothing with no whole packet presented, the command of the first packet,
or ILLEGAL for a packet of a reserved OP (spec/30_encoding.md R72, R84; spec/60_exceptions.md R201, R211). -/
theorem step_eq_next {s t : State} :
    step s = .next t ↔ s.config.Valid ∧
      ((t = s ∧ (decode s.hostIn = .error .noHeader ∨ ∃ n m, decode s.hostIn = .error (.incomplete n m))) ∨
      (∃ i rest, decode s.hostIn = .ok (i, rest) ∧ exec i { s with hostIn := rest } = .next t) ∨
      (∃ op, decode s.hostIn = .error (.reservedOp op) ∧
        t = State.raiseIllegal { s with hostIn := s.hostIn.drop 1 } op)) := by
  unfold step State.fetch
  by_cases hV : s.config.Valid
  · rw [if_pos hV, and_iff_right hV]
    cases hd : decode s.hostIn with
    | ok p => obtain ⟨i, rest⟩ := p; simp
    | error e => cases e <;> simp [eq_comm]
  · rw [if_neg hV]
    exact ⟨fun h => (by cases h), fun h => absurd h.1 hV⟩

/-- A run of no steps stays where it is. -/
theorem run_zero (M : Host.Core) (s : M.State) : M.run 0 s = .next s := rfl

/-- A run whose first step gives `t` goes on from `t`. -/
theorem run_succ (M : Host.Core) (n : Nat) {s t : M.State} (h : M.step s = .next t) : M.run (n + 1) s = M.run n t := by
  simp only [Host.Core.run, h]

end Sys2Proof.Machine
end

