-- ==== Sys2Proof/Tests/Slice0.lean ====
section
/-! SUPPORT. Tests: the smoke test of the well-formedness checks, decodings of words written out from spec/30_encoding.md,
single commands with the results of spec/95_test_vectors.md, and a witness for the hypotheses of every statement. -/

namespace Sys2Proof.Tests

open Sys2Proof.Machine

/-! Small states and frames. -/

/-- The next state, where there is one. -/
def nextOf (o : Host.Outcome State Fault Refusal) : Option State :=
  match o with
  | .next t => some t
  | .fault _ => none
  | .refused _ => none

/-- The state after a command, `s` itself where the command stops. -/
def after (i : Instr) (s : State) : State := (nextOf (exec i s)).getD s

/-- The state after a step, `s` itself where the step stops. -/
def afterStep (s : State) : State := (nextOf (step s)).getD s

/-- The receiver idle on interface 0, expecting transfer 3 (95_test_vectors.md E4). -/
def idle (answers : List BufAnswer) : State :=
  { State.reset with
    bufAnswers := answers
    regs := { ifaceIndex := 0, tid := 3, nextFrameIndex := 0, bufferWritePos := 0, thisTransferMonotonicTs := 1000,
              prevTransferMonotonicTs := 1000, firstFrameUtcTs := 0, thisTransferCrc := 0, transferInterval := 1000 } }

/-- The receiver after the first frame of transfer 3, one byte in the buffer (95_test_vectors.md E5). -/
def mid (answers : List BufAnswer) : State :=
  { State.reset with
    bufAnswers := answers
    buffer := some [(0, 0xAA)]
    regs := { ifaceIndex := 0, tid := 3, nextFrameIndex := 1, bufferWritePos := 1, thisTransferMonotonicTs := 2000,
              prevTransferMonotonicTs := 1000, firstFrameUtcTs := 0, thisTransferCrc := 0x1234,
              transferInterval := 1000 } }

/-- The receiver right after reset, with answers to come. -/
def fresh (answers : List BufAnswer) : State := { State.reset with bufAnswers := answers }

/-- The answer PRESENT. -/
def yes : BufAnswer := ⟨.present, 0⟩
/-- The answer NONE. -/
def no : BufAnswer := ⟨.absent, 0⟩
/-- The answer to a BufWrite. -/
def wrote (n : BitVec 32) : BufAnswer := ⟨.absent, n⟩

def frame (iface : BitVec 4) (tid index : BitVec 8) (first last : Bool) (ts : BitVec 64) (payload : List Byte) : Frame :=
  { ifaceIndex := iface, transferId := tid, frameIndex := index, isFirstFrame := first, isLastFrame := last,
    payload := payload, monotonicTimestamp := ts, utcTimestamp := 7 }

def first3 : Frame := frame 0 3 0 true false 2000 [0x34, 0x12, 0xAA]
def middle3 : Frame := frame 0 3 1 false false 2010 [0xBB]
def last3 : Frame := frame 0 3 1 false true 2010 [0xBB]
def single3 : Frame := frame 0 3 0 true true 2000 [0x11, 0x22]
def first4 : Frame := frame 0 4 0 true false 2100 [0x78, 0x56, 0xEE]
/-- As late as a receiver whose interval is 1000 ticks takes it, and too late for one whose interval has shrunk. -/
def edgeLast3 : Frame := frame 0 3 1 false true 7000 [0xBB]
/-- The receiver after a first frame 1 tick behind the last transfer's: completing it shrinks the interval to 887. -/
def shrinking (answers : List BufAnswer) : State :=
  { mid answers with regs := { (mid []).regs with prevTransferMonotonicTs := 1999 } }
def late3 : Frame := frame 0 3 1 false false 7001 [0xBB]

/-! Well-formedness: each check refuses. -/

theorem test_illFormed_nop : ¬(Instr.nop 1).WellFormed := by decide
theorem test_illFormed_checkTimeout : ¬(Instr.checkTimeout 0x8000000 0).WellFormed := by decide
theorem test_illFormed_readReg_reserved : ¬(Instr.readReg 1 0).WellFormed := by decide
theorem test_illFormed_readReg_number :
    ¬(Instr.readReg 0 0x09).WellFormed ∧ ¬(Instr.readReg 0 0x0F).WellFormed ∧ ¬(Instr.readReg 0 0x14).WellFormed := by
  decide
theorem test_illFormed_reset : ¬(Instr.reset 1).WellFormed := by decide
theorem test_illFormed_payload : ¬(Instr.addFrame (frame 0 0 0 true true 1 (List.replicate 64 0))).WellFormed := by
  decide
theorem test_outOfRange_tid : ¬(frame 0 8 0 true true 1 []).InRange Config.reference := by decide
theorem test_outOfRange_index : ¬(frame 0 0 63 true true 1 []).InRange Config.reference := by decide
theorem test_outOfRange_payload : ¬(frame 0 0 0 true true 1 (List.replicate 9 0)).InRange Config.reference := by decide
def config (bitlen indexMax payloadMax : Nat) (lo hi : BitVec 32) : Config :=
  { bitlen := bitlen, frameIndexMax := indexMax, payloadMax := payloadMax, minTransferInterval := lo,
    maxTransferInterval := hi, defaultTransferInterval := 1000, abortTidPolicy := .keep }

theorem test_invalid_bitlen : ¬(config 1 62 8 100 10000).Valid ∧ ¬(config 9 62 8 100 10000).Valid := by decide
theorem test_invalid_indexMax : ¬(config 3 0 8 100 10000).Valid ∧ ¬(config 3 256 8 100 10000).Valid := by decide
theorem test_invalid_payloadMax : ¬(config 3 62 1 100 10000).Valid ∧ ¬(config 3 62 64 100 10000).Valid := by decide
theorem test_invalid_intervals : ¬(config 3 62 8 1001 10000).Valid ∧ ¬(config 3 62 8 100 999).Valid := by decide
theorem test_valid_bounds : (config 2 1 2 1000 1000).Valid ∧ (config 8 255 63 0 0xFFFFFFFF).Valid := by decide

/-! Decoding: words written out from the tables of 30_encoding.md. -/

/-- Header 0001 0 1 000011 00000000 00000011 0000 (R73), timestamps 2000 and 7, payload 34 12 AA with padding FF. -/
theorem test_decode_addFrame :
    decode [0x14300030, 0x000007D0, 0, 7, 0, 0xFFAA1234] = .ok (.addFrame first3, []) := by decide
/-- Header 0001 1 0 111111 10100101 11000011 1111: every field at bits of its own. -/
theorem test_decode_addFrame_fields :
    (decodeFrame 0x1BFA5C3F []).ifaceIndex = 0xF ∧ (decodeFrame 0x1BFA5C3F []).transferId = 0xC3 ∧
    (decodeFrame 0x1BFA5C3F []).frameIndex = 0xA5 ∧ (decodeFrame 0x1BFA5C3F []).isFirstFrame = false ∧
    (decodeFrame 0x1BFA5C3F []).isLastFrame = true ∧ headerPlen 0x1BFA5C3F = 63 := by decide
/-- R76: the low word first. -/
theorem test_decode_checkTimeout :
    decode [0x20000000, 0x00001389, 0x00000001, 0xF0000000] = .ok (.checkTimeout 0 0x100001389, [0xF0000000]) := by decide
theorem test_decode_readReg : decode [0x3ABCDE13] = .ok (.readReg 0xABCDE 0x13, []) := by decide
theorem test_decode_reset : decode [0xF0000001] = .ok (.reset 1, []) := by decide
theorem test_decode_nop : decode [0x00000000, 0x30000002] = .ok (.nop 0, [0x30000002]) := by decide
theorem test_decode_reserved :
    decode [0x40000000] = .error (.reservedOp 0x4) ∧ decode [0xEFFFFFFF] = .error (.reservedOp 0xE) := by decide
theorem test_decode_incomplete :
    decode [0x14300030, 0x000007D0, 0, 7, 0] = .error (.incomplete 5 6) ∧ decode [] = .error .noHeader := by decide
theorem test_encode_addFrame : encode (.addFrame first3) = [0x14300030, 0x000007D0, 0, 7, 0, 0x00AA1234] := by decide
theorem test_words_of_bytes : wordsOfBytes [0x13, 0x00, 0x00, 0x30, 0x01] = [0x30000013] := by decide

/-- The rows of spec/opcode_table.json, as the host numbers them, and each of them as the first command after reset. -/
theorem test_table_rows :
    decodeTableWord 32 0x00000000 = some (.nop 0) ∧ decodeTableWord 32 0x20000000 = some (.checkTimeout 0 0) ∧
    decodeTableWord 32 0x30000000 = some (.readReg 0 0) ∧ decodeTableWord 32 0xF0000000 = some (.reset 0) ∧
    decodeTableWord 32 0x10000000 = some (.addFrame
      { ifaceIndex := 0, transferId := 0, frameIndex := 0, isFirstFrame := false, isLastFrame := false, payload := [],
        monotonicTimestamp := 0, utcTimestamp := 0 }) := by decide
theorem test_table_rows_run :
    (afterStep (State.reset.withFetchWord 32 0x00000000)).portLog = [.response [0x00000000]] ∧
    (afterStep (State.reset.withFetchWord 32 0x10000000)).portLog = [.response [0x00001010]] ∧
    (afterStep (State.reset.withFetchWord 32 0x20000000)).portLog = [.response [0x00002000]] ∧
    (afterStep (State.reset.withFetchWord 32 0x30000008)).portLog = [.response [0x00003000, 1000, 0]] ∧
    (afterStep (State.reset.withFetchWord 32 0xF0000000)).portLog = [.response [0x0000F000]] := by decide

/-! Single commands, with the results of 95_test_vectors.md. -/

/-- Section 3.5 row 2: the first frame of a transfer. -/
theorem test_addFrame_first :
    (after (.addFrame first3) (idle [no, yes, wrote 1])).regs =
      { ifaceIndex := 0, tid := 3, nextFrameIndex := 1, bufferWritePos := 1, thisTransferMonotonicTs := 2000,
        prevTransferMonotonicTs := 1000, firstFrameUtcTs := 7, thisTransferCrc := 0x1234, transferInterval := 1000 } := by
  decide
/-- E6 row 1: a newer transfer ID restarts the receiver. -/
theorem test_addFrame_restart :
    (after (.addFrame first4) (mid [yes, no, yes, wrote 1])).portLog =
      [.bufRemove, .bufAccess .absent, .bufCreate .present, .bufWrite 0 [0xEE] 1, .response [0x00001100]] := by decide
/-- E7 rows 1 and 2: the window is 5000 ticks, and the comparison is strict. -/
theorem test_checkTimeout :
    (after (.checkTimeout 0 7000) (mid [])).portLog = [.response [0x00002000]] ∧
    (after (.checkTimeout 0 7001) (mid [])).portLog = [.response [0x00002004]] := by decide
/-- Section 3.9: the CONFIG row in the reference configuration, and a number outside the map. -/
theorem test_readReg :
    (after (.readReg 0 0x13) State.reset).portLog = [.response [0x00003000, 0x00083EA3, 0]] ∧
    (after (.readReg 0 0x09) State.reset).portLog = [.response [0x000030B8, 0, 0]] := by decide
/-- The configuration row under KEEP: bit 7 clear (10_state.md R32). -/
theorem test_readReg_keep :
    readRegister { Config.reference with abortTidPolicy := .keep } State.reset.regs 0x13 = some 0x00083E23 := by decide
theorem test_reset : (after (.reset 0) (mid [])).regs = State.reset.regs ∧
    (after (.reset 0) (mid [])).buffer = some [(0, 0xAA)] := by decide
theorem test_reset_illegal : after (.reset 1) (mid []) = (mid []).answering [0x0000F0B8] := by decide
theorem test_nop : after (.nop 0) (mid []) = (mid []).answering [0] := by decide
/-- Section 3.3: the sample 2000 moves the interval from 1000 to 1125; a sample of 50 is clamped to 100. -/
theorem test_interval : smoothedInterval 1000 2000 = 1125 ∧ clamp 50 100 10000 = 100 := by decide
/-- Section 3.1, at the half boundary. -/
theorem test_tidRel : tidRel Config.reference 0 3 = .future ∧ tidRel Config.reference 0 4 = .repeated ∧
    tidRel Config.reference 4 0 = .repeated ∧ tidRel Config.reference 7 2 = .future := by decide

/-! Witnesses: for each statement with hypotheses, operands and states that meet them together. -/

theorem witness_ReadRegAnswersTheRegister : State.reset.config.Valid := by decide

theorem witness_ReadRegOutsideTheMapIsIllegal :
    (0x09 ≤ (0x09#8).toNat ∧ (0x09#8).toNat ≤ 0x0F) ∧ (0x09 ≤ (0x0F#8).toNat ∧ (0x0F#8).toNat ≤ 0x0F) ∧
    0x14 ≤ (0x14#8).toNat ∧ 0x14 ≤ (0xFF#8).toNat ∧ (1#20) ≠ 0 := by decide

/-- Each bound just passed, and all three just kept. -/
theorem witness_OutOfRangeFrameIsIllegal :
    ((frame 15 7 62 false true 1 (List.replicate 8 0)).InRange State.reset.config ∧
      exec (.addFrame (frame 15 7 62 false true 1 (List.replicate 8 0))) (fresh [yes]) =
        .next (after (.addFrame (frame 15 7 62 false true 1 (List.replicate 8 0))) (fresh [yes]))) ∧
    2 ^ State.reset.config.bitlen ≤ (frame 0 8 0 true true 1 []).transferId.toNat ∧
    State.reset.config.frameIndexMax < (frame 0 0 63 true true 1 []).frameIndex.toNat ∧
    State.reset.config.payloadMax < (frame 0 0 0 true true 1 (List.replicate 9 0)).payload.length :=
  ⟨⟨by decide, rfl⟩, by decide, by decide, by decide⟩

/-- RESET gives a next state, the premise of the second clause. -/
theorem witness_ResetCommandEffect : exec (.reset 0) (mid []) = .next (after (.reset 0) (mid [])) := rfl

theorem witness_ReservedOpIsIllegal :
    State.reset.config.Valid ∧
    { State.reset with hostIn := [0x40000000] }.hostIn = (0x40000000 : Word) :: [] ∧
    0x4 ≤ (0x40000000 : Word).toNat / 2 ^ 28 ∧ (0xEFFFFFFF : Word).toNat / 2 ^ 28 ≤ 0xE := by decide

theorem witness_OnlyAddFrameAndResetWrite :
    (∀ f, Instr.nop 0 ≠ .addFrame f) ∧ (∀ r, Instr.nop 0 ≠ .reset r) ∧
    exec (.nop 0) State.reset = .next (after (.nop 0) State.reset) :=
  ⟨by simp, by simp, rfl⟩

theorem witness_StepRunsTheDecodedCommand :
    State.reset.config.Valid ∧
    decode { State.reset with hostIn := [0x30000002, 0] }.hostIn = .ok (.readReg 0 0x02, [0]) := by decide

theorem witness_NoPacketHoldsTheState :
    State.reset.config.Valid ∧ State.reset.hostIn = [] ∧ [(0 : Word)].length + 1 < packetLength 0x20000000 := by decide

theorem witness_BadConfigurationIsRefused :
    ¬(State.resetWith (config 9 62 8 100 10000)).config.Valid := by decide

theorem witness_DecodeOfEncode : (Instr.addFrame (frame 0 0 0 true true 1 (List.replicate 63 0))).Encodable := by decide

/-- An ADD_FRAME with a payload byte and padding that is not zero, and a command of another kind. -/
theorem witness_DecodedPacketIsTheEncoding :
    decode [0x14300030, 0x000007D0, 0, 7, 0, 0xFFAA1234, 0] = .ok (.addFrame first3, [0]) ∧
    2 < first3.payload.length ∧ decode [0x30000002, 0] = .ok (.readReg 0 2, [0]) ∧
    (∀ f, Instr.readReg 0 2 ≠ .addFrame f) := ⟨by decide, by decide, by decide, by simp⟩

/-- The longest packet under its header, a packet of three words, a packet of one word. -/
theorem witness_StepTakesOnePacket :
    State.reset.config.Valid ∧
    step { State.reset with hostIn := [0x20000000, 1, 0, 5] } =
      .next (afterStep { State.reset with hostIn := [0x20000000, 1, 0, 5] }) ∧
    (0x20000000 : Word).toNat / 2 ^ 28 = 2 ∧
    step { State.reset with hostIn := 0x13F00000 :: List.replicate 20 0 } =
      .next (afterStep { State.reset with hostIn := 0x13F00000 :: List.replicate 20 0 }) ∧
    5 + ((0x13F00000 : Word).toNat / 2 ^ 20 % 64 + 3) / 4 = 21 ∧
    step { State.reset with hostIn := [0x30000000] } = .next (afterStep { State.reset with hostIn := [0x30000000] }) :=
  ⟨by decide, rfl, by decide, rfl, by decide, rfl⟩

theorem witness_ConfigurationIsConstant : step State.reset = .next State.reset := rfl

/-- Zero, just older than each recorded start, and equal to the current one. -/
theorem witness_TimestampRejections :
    ((mid []).regs.thisTransferMonotonicTs.toNat ≤ (frame 0 3 1 true true 2000 []).monotonicTimestamp.toNat ∧
      exec (.addFrame (frame 0 3 1 true true 2000 [])) (mid [yes]) =
        .next (after (.addFrame (frame 0 3 1 true true 2000 [])) (mid [yes])) ∧
      Emitted (mid [yes]) (after (.addFrame (frame 0 3 1 true true 2000 [])) (mid [yes])) [.bufRemove] 0x00001002 []) ∧
    (frame 0 3 0 true true 0 []).InRange (mid []).config ∧ (frame 0 3 0 true true 0 []).monotonicTimestamp = 0 ∧
    (frame 0 3 1 true true 1999 []).InRange (mid []).config ∧ (frame 0 3 1 true true 1999 []).monotonicTimestamp ≠ 0 ∧
    (frame 0 3 1 true true 1999 []).monotonicTimestamp.toNat < (mid []).regs.thisTransferMonotonicTs.toNat ∧
    (frame 0 3 1 true true 999 []).monotonicTimestamp.toNat < (mid []).regs.prevTransferMonotonicTs.toNat :=
  ⟨⟨by decide, rfl, ⟨by decide, by decide⟩⟩, by decide, by decide, by decide, by decide, by decide, by decide⟩

theorem witness_RestartAndDrop :
    Admitted (mid [yes]) late3 ∧ NeedRestart (mid [yes]) late3 ∧ late3.isFirstFrame = false ∧
    (mid [yes]).bufAnswers = yes :: [] := by decide

/-- Each check of Validate, without a restart; and NO_CRC after one. -/
theorem witness_ValidationFailure :
    (ReachesValidate (mid []) (frame 1 3 1 false false 2010 []) ∧
      FailsWith (intakeState (mid []) (frame 1 3 1 false false 2010 [])) (frame 1 3 1 false false 2010 []) 0x4) ∧
    (ReachesValidate (mid [yes]) (frame 0 4 0 true false 2100 [0x78]) ∧
      FailsWith (intakeState (mid [yes]) (frame 0 4 0 true false 2100 [0x78])) (frame 0 4 0 true false 2100 [0x78]) 0x5) ∧
    (ReachesValidate (mid []) (frame 0 3 62 false false 2010 []) ∧
      FailsWith (intakeState (mid []) (frame 0 3 62 false false 2010 [])) (frame 0 3 62 false false 2010 []) 0x6) ∧
    (ReachesValidate (mid []) (frame 0 3 2 false false 2010 []) ∧
      FailsWith (intakeState (mid []) (frame 0 3 2 false false 2010 [])) (frame 0 3 2 false false 2010 []) 0x7) ∧
    (ReachesValidate (mid []) (frame 0 2 1 false false 2010 []) ∧
      FailsWith (intakeState (mid []) (frame 0 2 1 false false 2010 [])) (frame 0 2 1 false false 2010 []) 0x8) :=
  ⟨⟨by decide, .badIface (by decide)⟩,
   ⟨by decide, .noCrc (by decide) (by decide) (by decide) (by decide)⟩,
   ⟨by decide, .unterminated (by decide) (by decide) (by decide) (by decide)⟩,
   ⟨by decide, .badIndex (by decide) (by decide) (by decide) (by decide)⟩,
   ⟨by decide, .badTid (by decide) (by decide) (by decide) (by decide) (by decide)⟩⟩

/-- Idle without a restart, and uninitialized with one. -/
theorem witness_SingleFrameTransfer :
    (Accepted (idle [yes]) single3 ∧ single3.isFirstFrame = true ∧ single3.isLastFrame = true ∧
      (intakeState (idle [yes]) single3).bufAnswers = yes :: []) ∧
    (Accepted (fresh [yes, yes]) single3 ∧ (intakeState (fresh [yes, yes]) single3).bufAnswers = yes :: []) :=
  ⟨⟨by decide, by decide, by decide, by decide⟩, by decide, by decide⟩

theorem witness_NoBufferAbort :
    Accepted (idle [no, no]) first3 ∧ ¬(first3.isFirstFrame = true ∧ first3.isLastFrame = true) ∧
    (intakeState (idle [no, no]) first3).bufAnswers = no :: no :: [] ∧ no.presence = .absent := by decide

theorem witness_WriteFailureAbort :
    Accepted (idle [no, yes, wrote 0, yes]) first3 ∧
    ¬(first3.isFirstFrame = true ∧ first3.isLastFrame = true) ∧
    Acquires (intakeState (idle [no, yes, wrote 0, yes]) first3) [.bufAccess .absent, .bufCreate .present] []
      (wrote 0 :: yes :: []) ∧
    (wrote 0).written.toInt ≠ ((writtenBytes first3).length : Int) :=
  ⟨by decide, by decide, .inr ⟨no, yes, rfl, rfl, rfl, rfl, rfl⟩, by decide⟩

/-- A first frame in a new buffer, and a middle frame in the buffer at hand. -/
theorem witness_FrameTakenIntoTransfer :
    (Accepted (idle [no, yes, wrote 1]) first3 ∧ first3.isLastFrame = false ∧
      Acquires (intakeState (idle [no, yes, wrote 1]) first3) [.bufAccess .absent, .bufCreate .present] []
        (wrote 1 :: []) ∧
      (wrote 1).written.toInt = ((writtenBytes first3).length : Int)) ∧
    (Accepted (mid [yes, wrote 1]) middle3 ∧ middle3.isLastFrame = false ∧
      Acquires (intakeState (mid [yes, wrote 1]) middle3) [.bufAccess .present] [(0, 0xAA)] (wrote 1 :: []) ∧
      (wrote 1).written.toInt = ((writtenBytes middle3).length : Int)) :=
  ⟨⟨by decide, by decide, .inr ⟨no, yes, rfl, rfl, rfl, rfl, rfl⟩, by decide⟩,
   ⟨by decide, by decide, .inl ⟨yes, rfl, rfl, rfl, rfl⟩, by decide⟩⟩

theorem witness_MultiFrameTransferCompletes :
    Accepted (mid [yes, wrote 1]) last3 ∧ last3.isFirstFrame = false ∧ last3.isLastFrame = true ∧
    Acquires (intakeState (mid [yes, wrote 1]) last3) [.bufAccess .present] [(0, 0xAA)] (wrote 1 :: []) ∧
    (wrote 1).written.toInt = ((writtenBytes last3).length : Int) :=
  ⟨by decide, by decide, by decide, .inl ⟨yes, rfl, rfl, rfl, rfl⟩, by decide⟩

/-- A restart's BufRemove; a single frame's after a restart, and a BufAccess; a BufCreate; a BufWrite in a new buffer and
in the one at hand; the BufRemove after a failed write. -/
theorem witness_UnansweredTransactionIsStuck :
    (Admitted (fresh []) first3 ∧ NeedRestart (fresh []) first3 ∧ (fresh []).bufAnswers = []) ∧
    (Accepted (fresh [yes]) single3 ∧ (intakeState (fresh [yes]) single3).bufAnswers = []) ∧
    (Accepted (mid []) middle3 ∧ (intakeState (mid []) middle3).bufAnswers = []) ∧
    ¬(first3.isFirstFrame = true ∧ first3.isLastFrame = true) ∧
    ¬(middle3.isFirstFrame = true ∧ middle3.isLastFrame = true) ∧
    (Accepted (idle [no]) first3 ∧ (intakeState (idle [no]) first3).bufAnswers = [no] ∧ no.presence = .absent) ∧
    (Accepted (idle [no, yes]) first3 ∧
      Acquires (intakeState (idle [no, yes]) first3) [.bufAccess .absent, .bufCreate .present] [] []) ∧
    (Accepted (mid [yes]) middle3 ∧ Acquires (intakeState (mid [yes]) middle3) [.bufAccess .present] [(0, 0xAA)] []) ∧
    (Accepted (mid [yes, wrote 0]) middle3 ∧
      Acquires (intakeState (mid [yes, wrote 0]) middle3) [.bufAccess .present] [(0, 0xAA)] [wrote 0] ∧
      (wrote 0).written.toInt ≠ ((writtenBytes middle3).length : Int)) :=
  ⟨by decide, by decide, by decide, by decide, by decide, by decide,
   ⟨by decide, .inr ⟨no, yes, rfl, rfl, rfl, rfl, rfl⟩⟩, ⟨by decide, .inl ⟨yes, rfl, rfl, rfl, rfl⟩⟩,
   ⟨by decide, .inl ⟨yes, rfl, rfl, rfl, rfl⟩, by decide⟩⟩

theorem witness_EveryCommandRunsToItsResponse :
    maxTransactions ≤ (mid [yes, no, yes, wrote 1, yes]).bufAnswers.length ∧
    exec (.addFrame middle3) (mid []) = .fault .bufferUnanswered ∧
    exec (.addFrame first4) (mid [yes, no, yes, wrote 1]) =
      .next (after (.addFrame first4) (mid [yes, no, yes, wrote 1])) := ⟨by decide, rfl, rfl⟩

theorem witness_AddFrameTransactionTable :
    exec (.addFrame first3) (idle [no, yes, wrote 0, yes]) =
      .next (after (.addFrame first3) (idle [no, yes, wrote 0, yes])) := rfl

theorem witness_BytesOutsideTheWriteAreKept :
    exec (.addFrame middle3) (mid [yes, wrote 1]) = .next (after (.addFrame middle3) (mid [yes, wrote 1])) ∧
    Emitted (mid [yes, wrote 1]) (after (.addFrame middle3) (mid [yes, wrote 1]))
      [.bufAccess .present, .bufWrite 1 [0xBB] 1] 0x00001000 [] ∧
    (∀ e ∈ [PortEvent.bufAccess .present, .bufWrite 1 [0xBB] 1],
      e = .bufAccess .present ∨ ∃ o bs r, e = .bufWrite o bs r) ∧
    ¬((mid []).regs.bufferWritePos.toNat ≤ 0 ∧
      0 < (mid []).regs.bufferWritePos.toNat + (writtenBytes middle3).length) :=
  ⟨rfl, ⟨by decide, by decide⟩, by simp, by decide⟩

/-- A command that writes `iface_index`, `tid`, both counters, the timestamps, the interval and the CRC. -/
theorem witness_RegistersAreWrittenOnlyByTheirWriters :
    (∀ r, Instr.addFrame (frame 1 4 0 true true 4001 []) ≠ .reset r) ∧
    exec (.addFrame (frame 1 4 0 true true 4001 [])) (mid [yes, yes]) =
      .next (after (.addFrame (frame 1 4 0 true true 4001 [])) (mid [yes, yes])) ∧
    Emitted (mid [yes, yes]) (after (.addFrame (frame 1 4 0 true true 4001 [])) (mid [yes, yes]))
      [.bufRemove, .bufRemove] 0x00001102 [] ∧
    (after (.addFrame (frame 1 4 0 true true 4001 [])) (mid [yes, yes])).regs.ifaceIndex ≠ (mid []).regs.ifaceIndex ∧
    (after (.addFrame (frame 1 4 0 true true 4001 [])) (mid [yes, yes])).regs.tid ≠ (mid []).regs.tid ∧
    (after (.addFrame (frame 1 4 0 true true 4001 [])) (mid [yes, yes])).regs.nextFrameIndex ≠
      (mid []).regs.nextFrameIndex ∧
    (after (.addFrame (frame 1 4 0 true true 4001 [])) (mid [yes, yes])).regs.bufferWritePos ≠
      (mid []).regs.bufferWritePos ∧
    (after (.addFrame (frame 1 4 0 true true 4001 [])) (mid [yes, yes])).regs.transferInterval ≠
      (mid []).regs.transferInterval :=
  ⟨by simp, rfl, ⟨by decide, by decide⟩, by decide, by decide, by decide, by decide, by decide⟩

/-- The abort of a write that failed, under ADVANCE and without a restart, moves `tid` (41_validation_and_reassembly.md R140). -/
theorem witness_RegistersAreWrittenOnlyByTheirWriters_abort :
    exec (.addFrame middle3) (mid [yes, wrote 0, yes]) = .next (after (.addFrame middle3) (mid [yes, wrote 0, yes])) ∧
    Emitted (mid [yes, wrote 0, yes]) (after (.addFrame middle3) (mid [yes, wrote 0, yes]))
      [.bufAccess .present, .bufWrite 1 [0xBB] 0, .bufRemove] 0x000010A0 [] ∧
    (after (.addFrame middle3) (mid [yes, wrote 0, yes])).regs.tid ≠ (mid []).regs.tid ∧ ¬NeedRestart (mid []) middle3 :=
  ⟨rfl, ⟨by decide, by decide⟩, by decide, by decide⟩

theorem witness_TidRelationIsCircular :
    Config.reference.Valid ∧ (0#8).toNat < 2 ^ Config.reference.bitlen ∧ (4#8).toNat < 2 ^ Config.reference.bitlen ∧
    tidDistance Config.reference 0 4 = (2 : Int) ^ (Config.reference.bitlen - 1) ∧
    tidDistance Config.reference 0 3 ≠ (2 : Int) ^ (Config.reference.bitlen - 1) := by decide

theorem witness_TimeoutStaysForLaterTimestamps :
    (7001#64).toNat ≤ (7002#64).toNat ∧
    exec (.checkTimeout 0 7001) (mid []) = .next ((mid []).answering [0x00002004]) ∧
    exec (.addFrame late3) (mid [yes]) = .next (after (.addFrame late3) (mid [yes])) ∧
    (after (.addFrame late3) (mid [yes])).regs.thisTransferMonotonicTs = (mid []).regs.thisTransferMonotonicTs ∧
    (after (.addFrame late3) (mid [yes])).regs.transferInterval = (mid []).regs.transferInterval :=
  ⟨by decide, rfl, rfl, by decide, by decide⟩

theorem witness_ReceiverTimeoutImpliesInterfaceTimeout :
    Config.reference.Valid ∧ isTimedOut Config.reference (mid []).regs 7001 = true := by decide

theorem witness_OtherInterfaceIsRejected :
    Admitted (mid []) (frame 1 4 0 true false 4000 [1, 2]) ∧ (mid []).regs.thisTransferMonotonicTs ≠ 0 ∧
    (frame 1 4 0 true false 4000 [1, 2]).ifaceIndex ≠ (mid []).regs.ifaceIndex ∧
    ¬TimedOut (mid []).config (mid []).regs (frame 1 4 0 true false 4000 [1, 2]).monotonicTimestamp ∧
    ¬(IfaceTimedOut (mid []).regs (frame 1 4 0 true false 4000 [1, 2]).monotonicTimestamp ∧
      (frame 1 4 0 true false 4000 [1, 2]).isFirstFrame = true ∧
      FutureTid (mid []).config (mid []).regs.tid (frame 1 4 0 true false 4000 [1, 2]).transferId) := by decide

/-- A single frame and a last frame, both completed. -/
theorem witness_CompletionLeavesTheTransfersRegisters :
    (exec (.addFrame single3) (idle [yes]) = .next (after (.addFrame single3) (idle [yes])) ∧
      Emitted (idle [yes]) (after (.addFrame single3) (idle [yes])) [.bufRemove] 0x00001002 [] ∧
      resultField 0x00001002 = 2) ∧
    (exec (.addFrame last3) (mid [yes, wrote 1]) = .next (after (.addFrame last3) (mid [yes, wrote 1])) ∧
      Emitted (mid [yes, wrote 1]) (after (.addFrame last3) (mid [yes, wrote 1]))
        [.bufAccess .present, .bufWrite 1 [0xBB] 1] 0x00001001 [] ∧
      resultField 0x00001001 = 1) :=
  ⟨⟨rfl, ⟨by decide, by decide⟩, by decide⟩, ⟨rfl, ⟨by decide, by decide⟩, by decide⟩⟩

theorem witness_DuplicateInTransferIsRejected :
    exec (.addFrame middle3) (mid [yes, wrote 1]) = .next (after (.addFrame middle3) (mid [yes, wrote 1])) ∧
    Emitted (mid [yes, wrote 1]) (after (.addFrame middle3) (mid [yes, wrote 1]))
      [.bufAccess .present, .bufWrite 1 [0xBB] 1] 0x00001000 [] ∧
    diagField 0x00001000 = 0 ∧ resultField 0x00001000 = 0 := ⟨rfl, ⟨by decide, by decide⟩, by decide, by decide⟩

/-- A single frame of index 0, and one of index 1. -/
theorem witness_DuplicateSingleFrameIsRejected :
    (idle []).config.Valid ∧
    exec (.addFrame single3) (idle [yes]) = .next (after (.addFrame single3) (idle [yes])) ∧
    Emitted (idle [yes]) (after (.addFrame single3) (idle [yes])) [.bufRemove] 0x00001002 [] ∧
    exec (.addFrame (frame 0 3 1 true true 2000 [])) (mid [yes]) =
      .next (after (.addFrame (frame 0 3 1 true true 2000 [])) (mid [yes])) ∧
    Emitted (mid [yes]) (after (.addFrame (frame 0 3 1 true true 2000 [])) (mid [yes])) [.bufRemove] 0x00001002 [] ∧
    resultField 0x00001002 = 2 :=
  ⟨by decide, rfl, ⟨by decide, by decide⟩, rfl, ⟨by decide, by decide⟩, by decide⟩

/-- A last frame whose copy is in time, and one whose copy is too late for the interval that its completion left. -/
theorem witness_DuplicateLastFrameRestartsOrIsRejected :
    (mid []).config.Valid ∧ resultField 0x00001001 = 1 ∧
    (exec (.addFrame last3) (mid [yes, wrote 1]) = .next (after (.addFrame last3) (mid [yes, wrote 1])) ∧
      Emitted (mid [yes, wrote 1]) (after (.addFrame last3) (mid [yes, wrote 1]))
        [.bufAccess .present, .bufWrite 1 [0xBB] 1] 0x00001001 [] ∧
      ¬TimedOut (mid []).config (after (.addFrame last3) (mid [yes, wrote 1])).regs last3.monotonicTimestamp) ∧
    (exec (.addFrame edgeLast3) (shrinking [yes, wrote 1, yes]) =
        .next (after (.addFrame edgeLast3) (shrinking [yes, wrote 1, yes])) ∧
      Emitted (shrinking [yes, wrote 1, yes]) (after (.addFrame edgeLast3) (shrinking [yes, wrote 1, yes]))
        [.bufAccess .present, .bufWrite 1 [0xBB] 1] 0x00001001 [] ∧
      TimedOut (mid []).config (after (.addFrame edgeLast3) (shrinking [yes, wrote 1, yes])).regs
        edgeLast3.monotonicTimestamp ∧
      (after (.addFrame edgeLast3) (shrinking [yes, wrote 1, yes])).bufAnswers = yes :: []) :=
  ⟨by decide, by decide, ⟨rfl, ⟨by decide, by decide⟩, by decide⟩,
   ⟨rfl, ⟨by decide, by decide⟩, by decide, by decide⟩⟩

/-- A frame dropped by a timed-out receiver, twice, each time with a restart. -/
theorem witness_RejectsAreIdempotent :
    exec (.addFrame late3) (mid [yes, yes]) = .next (after (.addFrame late3) (mid [yes, yes])) ∧
    Emitted (mid [yes, yes]) (after (.addFrame late3) (mid [yes, yes])) [.bufRemove] 0x00001130 [] ∧
    diagField 0x00001130 ≠ 0x0 ∧ diagField 0x00001130 ≠ 0x9 ∧ diagField 0x00001130 ≠ 0xA ∧
    exec (.addFrame late3) (after (.addFrame late3) (mid [yes, yes])) =
      .next (after (.addFrame late3) (after (.addFrame late3) (mid [yes, yes]))) ∧
    Emitted (after (.addFrame late3) (mid [yes, yes]))
      (after (.addFrame late3) (after (.addFrame late3) (mid [yes, yes]))) [.bufRemove] 0x00001130 [] :=
  ⟨rfl, ⟨by decide, by decide⟩, by decide, by decide, by decide, rfl, ⟨by decide, by decide⟩⟩

/-- A frame rejected without a restart, and one rejected again without the restart it had at first (E2). -/
theorem witness_RejectsAreIdempotent_once :
    Emitted (mid []) (after (.addFrame (frame 0 3 2 false false 2050 [])) (mid [])) [] 0x00001070 [] ∧
    Emitted (mid [yes]) (after (.addFrame (frame 0 4 0 true false 2100 [0x78])) (mid [yes])) [.bufRemove] 0x00001150 [] ∧
    Emitted (after (.addFrame (frame 0 4 0 true false 2100 [0x78])) (mid [yes]))
      (after (.addFrame (frame 0 4 0 true false 2100 [0x78]))
        (after (.addFrame (frame 0 4 0 true false 2100 [0x78])) (mid [yes]))) [] 0x00001050 [] :=
  ⟨⟨by decide, by decide⟩, ⟨by decide, by decide⟩, ⟨by decide, by decide⟩⟩

theorem witness_StartTimestampsNeverRegress :
    (mid [yes, wrote 1]).regs.TimestampsOrdered ∧
    exec (.addFrame last3) (mid [yes, wrote 1]) = .next (after (.addFrame last3) (mid [yes, wrote 1])) ∧
    (∀ r, Instr.addFrame last3 ≠ .reset r) ∧ (mid []).regs.thisTransferMonotonicTs ≠ 0 :=
  ⟨by decide, rfl, by simp, by decide⟩

/-- An initialized pair of states, and one before initialization; both run, and both can be stuck. -/
theorem witness_UnreadRegistersCannotBeSeen :
    (∀ r reg, Instr.addFrame first3 ≠ .readReg r reg) ∧
    AgreeButUnread (idle [no, yes, wrote 1])
      { idle [no, yes, wrote 1] with regs := { (idle []).regs with firstFrameUtcTs := 5 } } ∧
    AgreeButUnread (fresh [yes, no, yes, wrote 1])
      { fresh [yes, no, yes, wrote 1] with regs := { (fresh []).regs with tid := 5, thisTransferCrc := 1 } } ∧
    exec (.addFrame first3) (fresh [yes, no, yes, wrote 1]) =
      .next (after (.addFrame first3) (fresh [yes, no, yes, wrote 1])) ∧
    exec (.addFrame first3) (fresh []) = .fault .bufferUnanswered :=
  ⟨by simp, by decide, by decide, rfl, rfl⟩

theorem witness_ResetStateIsGood : Config.reference.Valid := by decide

theorem witness_EveryStepKeepsTheInvariant :
    { mid [yes, wrote 1] with hostIn := encode (.addFrame last3) }.Inv ∧
    step { mid [yes, wrote 1] with hostIn := encode (.addFrame last3) } =
      .next (afterStep { mid [yes, wrote 1] with hostIn := encode (.addFrame last3) }) := ⟨by decide, rfl⟩

theorem witness_RunsGoOnWhileAnswered :
    { mid [yes, wrote 1, yes, yes, yes] with hostIn := encode (.addFrame last3) }.Inv ∧
    maxTransactions * 1 ≤ (mid [yes, wrote 1, yes, yes, yes]).bufAnswers.length := by decide

end Sys2Proof.Tests
end

section
/-! What a command can do with a next state: it only answers, it is RESET, or it is the intake of an ADD_FRAME. The
statements about the registers are derived from this and from what the intake writes. -/

namespace Sys2Proof.Machine

variable {i : Instr} {f : Frame} {s t : State}

/-- NOP answers the same whatever the state (spec/43_host_commands.md R180). -/
theorem execNop_answers (r : BitVec 28) : ∃ ws, ∀ s, execNop r s = .next (s.answering ws) := by
  by_cases hr : r = 0
  · exact ⟨_, fun s => if_neg (not_not.mpr hr)⟩
  · exact ⟨_, fun s => if_pos hr⟩

/-- CHECK_TIMEOUT answers, and reads nothing but whether the receiver is timed out (spec/40_tid_and_timing.md R106). -/
theorem execCheckTimeout_answers (r : BitVec 28) (ts : BitVec 64) :
    ∃ ws : Bool → List Word, ∀ s,
      execCheckTimeout r ts s = .next (s.answering (ws (isTimedOut s.config s.regs ts))) := by
  by_cases hr : r = 0
  · exact ⟨fun b => [Status.word { op := opCheckTimeout, timedOut := b }], fun s => if_neg (not_not.mpr hr)⟩
  · exact ⟨fun _ => (illegalStatus opCheckTimeout).word :: illegalData opCheckTimeout, fun s => if_pos hr⟩

/-- READ_REG without reserved bits answers the value of a register of the map (spec/43_host_commands.md R181). -/
theorem execReadReg_of_register {reg : BitVec 8} {d : Dword} (h : readRegister s.config s.regs reg = some d) :
    execReadReg 0 reg s = .next (s.answering (0x00003000 :: dwordWords d)) := by
  simp only [execReadReg, h]; rfl

/-- READ_REG only answers (R181). -/
theorem execReadReg_answers (r : BitVec 20) (reg : BitVec 8) (s : State) :
    ∃ ws, execReadReg r reg s = .next (s.answering ws) := by
  by_cases hr : r = 0
  · subst hr
    cases hReg : readRegister s.config s.regs reg with
    | none => exact ⟨_, by simp only [execReadReg, hReg]; rfl⟩
    | some d => exact ⟨_, execReadReg_of_register hReg⟩
  · exact ⟨_, if_pos hr⟩

/-- RESET is ILLEGAL, or writes the reset values and answers (R183). -/
theorem execReset_cases (r : BitVec 28) :
    ∃ ws, (∀ s, execReset r s = .next (s.answering ws)) ∨
      ∀ s, execReset r s = .next (State.answering { s with regs := Registers.reset s.config } ws) := by
  by_cases hr : r = 0
  · exact ⟨_, .inr fun s => if_neg (not_not.mpr hr)⟩
  · exact ⟨_, .inl fun s => if_pos hr⟩

/-- ADD_FRAME only answers, or it is admitted and its intake runs (spec/42_add_frame.md R160). -/
theorem execAddFrame_cases (h : execAddFrame f s = .next t) :
    (∃ ws, t = s.answering ws) ∨ (Admitted s f ∧ intake f s = some t) := by
  rcases execAddFrame_eq_next.mp h with ⟨-, rfl⟩ | ⟨-, -, rfl⟩ | ⟨-, -, -, rfl⟩ | hIn
  · exact .inl ⟨_, rfl⟩
  · exact .inl ⟨_, rfl⟩
  · exact .inl ⟨_, rfl⟩
  · exact .inr hIn

/-- Everything a command can do with a next state. -/
theorem exec_cases (h : exec i s = .next t) :
    (∃ ws, t = s.answering ws) ∨
    ((∃ r, i = .reset r) ∧ ∃ ws, t = State.answering { s with regs := Registers.reset s.config } ws) ∨
    (∃ f, i = .addFrame f ∧ Admitted s f ∧ intake f s = some t) := by
  cases i with
  | nop r =>
    obtain ⟨ws, hWs⟩ := execNop_answers r
    cases (hWs s).symm.trans h; exact .inl ⟨_, rfl⟩
  | addFrame f => exact (execAddFrame_cases h).imp_right fun hIn => .inr ⟨f, rfl, hIn⟩
  | checkTimeout r ts =>
    obtain ⟨ws, hWs⟩ := execCheckTimeout_answers r ts
    cases (hWs s).symm.trans h; exact .inl ⟨_, rfl⟩
  | readReg r reg =>
    obtain ⟨ws, hWs⟩ := execReadReg_answers r reg s
    cases hWs.symm.trans h; exact .inl ⟨_, rfl⟩
  | reset r =>
    obtain ⟨ws, hWs | hWs⟩ := execReset_cases r
    · cases (hWs s).symm.trans h; exact .inl ⟨_, rfl⟩
    · cases (hWs s).symm.trans h; exact .inr (.inl ⟨⟨r, rfl⟩, _, rfl⟩)

/-- ADD_FRAME has a next state or is stuck on a transaction that is never answered (spec/60_exceptions.md R202). -/
theorem execAddFrame_next_or_fault (f : Frame) (s : State) :
    (∃ t, execAddFrame f s = .next t) ∨ execAddFrame f s = .fault .bufferUnanswered := by
  unfold execAddFrame
  split
  · exact .inl ⟨_, rfl⟩
  · split
    · exact .inl ⟨_, rfl⟩
    · split
      · exact .inl ⟨_, rfl⟩
      · cases intake f s with
        | none => exact .inr rfl
        | some t => exact .inl ⟨t, rfl⟩

/-- No command is refused: it has a next state, or it is stuck as R202 has it. -/
theorem exec_next_or_fault (i : Instr) (s : State) :
    (∃ t, exec i s = .next t) ∨ exec i s = .fault .bufferUnanswered := by
  cases i with
  | nop r => obtain ⟨ws, hWs⟩ := execNop_answers r; exact .inl ⟨_, hWs s⟩
  | addFrame f => exact execAddFrame_next_or_fault f s
  | checkTimeout r ts => obtain ⟨ws, hWs⟩ := execCheckTimeout_answers r ts; exact .inl ⟨_, hWs s⟩
  | readReg r reg => obtain ⟨ws, hWs⟩ := execReadReg_answers r reg s; exact .inl ⟨_, hWs⟩
  | reset r =>
    obtain ⟨ws, hWs | hWs⟩ := execReset_cases r
    · exact .inl ⟨_, hWs s⟩
    · exact .inl ⟨_, hWs s⟩

end Sys2Proof.Machine
end

section
/-! Registers that nothing reads (spec/10_state.md R42). A command run with another `first_frame_utc_ts` does the same
and differs in that register only; before the receiver is given a start, the restart that every admitted frame brings
overwrites the other five registers. -/

namespace Sys2Proof.Machine

/-- The registers with another `first_frame_utc_ts`. -/
def Registers.withUtc (u : BitVec 64) (r : Registers) : Registers := { r with firstFrameUtcTs := u }

/-- The state with another `first_frame_utc_ts`. -/
def State.withUtc (u : BitVec 64) (s : State) : State := { s with regs := s.regs.withUtc u }

variable {f : Frame} {s s' t : State} {res : ResultCode} {d : Diag}

theorem takeFrame_withUtc (u : BitVec 64) (h : (res, d, t) = takeFrame f s) :
    (res, d, t.withUtc u) = takeFrame f (s.withUtc u) := by
  unfold takeFrame at h ⊢
  split at h
  · next hl => cases h; rw [if_pos hl]; rfl
  · next hl => cases h; rw [if_neg hl]; rfl

theorem receiveSingleFrame_withUtc (u : BitVec 64) (h : receiveSingleFrame s = some (res, d, t)) :
    receiveSingleFrame (s.withUtc u) = some (res, d, t.withUtc u) := by
  obtain ⟨a, rest, hAns, rfl, rfl, rfl⟩ := receiveSingleFrame_eq_some.mp h
  exact receiveSingleFrame_eq_some.mpr ⟨a, rest, hAns, rfl, rfl, rfl⟩

theorem receiveMultiFrame_withUtc (u : BitVec 64) (h : receiveMultiFrame f s = some (res, d, t)) :
    receiveMultiFrame f (s.withUtc u) = some (res, d, t.withUtc u) := by
  rw [receiveMultiFrame_eq_some]
  rcases receiveMultiFrame_eq_some.mp h with ⟨a, b, rest, hAns, ha, hb, rfl, rfl, rfl⟩ |
    ⟨evs, bytes, w, a, rest, hAcq, hFail, rfl, rfl, rfl⟩ | ⟨evs, bytes, w, rest, hAcq, hOk, hTake⟩
  · exact .inl ⟨a, b, rest, hAns, ha, hb, rfl, rfl, rfl⟩
  · exact .inr (.inl ⟨evs, bytes, w, a, rest, hAcq, hFail, rfl, rfl, rfl⟩)
  · exact .inr (.inr ⟨evs, bytes, w, rest, hAcq, hOk, takeFrame_withUtc u hTake⟩)

/-- The timestamp capture of a first frame overwrites `first_frame_utc_ts`, that of another frame leaves it. -/
theorem capturedRegisters_withUtc (f : Frame) (u : BitVec 64) (r : Registers) :
    capturedRegisters f (r.withUtc u) =
      (capturedRegisters f r).withUtc (if f.isFirstFrame then f.utcTimestamp else u) := by
  cases h : f.isFirstFrame <;> simp [capturedRegisters, Registers.withUtc, h]

theorem receive_withUtc (u : BitVec 64) (h : receive f s = some (res, d, t)) :
    ∃ v, receive f (s.withUtc u) = some (res, d, t.withUtc v) := by
  refine ⟨if f.isFirstFrame then f.utcTimestamp else u, ?_⟩
  have hCap : { s.withUtc u with regs := capturedRegisters f (s.regs.withUtc u) } =
      State.withUtc (if f.isFirstFrame then f.utcTimestamp else u)
        { s with regs := capturedRegisters f s.regs } := by
    rw [capturedRegisters_withUtc]; rfl
  rw [receive_eq] at h ⊢
  split at h
  · next hS => rw [if_pos hS]; exact (congrArg _ hCap).trans (receiveSingleFrame_withUtc _ h)
  · next hM => rw [if_neg hM]; exact (congrArg _ hCap).trans (receiveMultiFrame_withUtc _ h)

theorem validateAndReceive_withUtc (u : BitVec 64) {b : Bool} (h : validateAndReceive f b s = some t) :
    ∃ v, validateAndReceive f b (s.withUtc u) = some (t.withUtc v) := by
  rcases validateAndReceive_eq_some.mp h with ⟨d, hInv, rfl⟩ | ⟨hVal, res, d, s1, hRec, rfl⟩
  · exact ⟨u, validateAndReceive_eq_some.mpr (.inl ⟨d, hInv, rfl⟩)⟩
  · obtain ⟨v, hRec'⟩ := receive_withUtc u hRec
    exact ⟨v, validateAndReceive_eq_some.mpr (.inr ⟨hVal, res, d, _, hRec', rfl⟩)⟩

theorem AgreeButUnread.symm (h : AgreeButUnread s s') : AgreeButUnread s' s := by
  obtain ⟨hc, hIn, hAns, hBuf, hLog, hThis, hPrev, hInt, hRest⟩ := h
  refine ⟨hc.symm, hIn.symm, hAns.symm, hBuf.symm, hLog.symm, hThis.symm, hPrev.symm, hInt.symm, fun h0 => ?_⟩
  obtain ⟨hIf, hTid, hIdx, hPos, hCrc⟩ := hRest (hThis ▸ h0)
  exact ⟨hIf.symm, hTid.symm, hIdx.symm, hPos.symm, hCrc.symm⟩

theorem agreeButUnread_withUtc (u : BitVec 64) (s : State) : AgreeButUnread s (s.withUtc u) :=
  ⟨rfl, rfl, rfl, rfl, rfl, rfl, rfl, rfl, fun _ => ⟨rfl, rfl, rfl, rfl, rfl⟩⟩

theorem AgreeButUnread.answering (h : AgreeButUnread s s') (ws : List Word) :
    AgreeButUnread (s.answering ws) (s'.answering ws) := by
  obtain ⟨hc, hIn, hAns, hBuf, hLog, hRegs⟩ := h
  exact ⟨hc, hIn, hAns, hBuf, congrArg (· ++ _) hLog, hRegs⟩

/-- Once the receiver has a start, two such states differ in `first_frame_utc_ts` only. -/
theorem AgreeButUnread.eq_withUtc (h : AgreeButUnread s s') (h0 : s.regs.thisTransferMonotonicTs ≠ 0) :
    s' = s.withUtc s'.regs.firstFrameUtcTs := by
  obtain ⟨hc, hIn, hAns, hBuf, hLog, hThis, hPrev, hInt, hRest⟩ := h
  obtain ⟨hIf, hTid, hIdx, hPos, hCrc⟩ := hRest h0
  obtain ⟨c, ⟨⟩, _, _, _, _⟩ := s
  obtain ⟨c', ⟨⟩, _, _, _, _⟩ := s'
  simp_all [State.withUtc, Registers.withUtc]

/-- After a restart, two such states differ in `first_frame_utc_ts` only (spec/42_add_frame.md R156). -/
theorem AgreeButUnread.restartedState_eq_withUtc (h : AgreeButUnread s s') (f : Frame) :
    restartedState s' f = (restartedState s f).withUtc s'.regs.firstFrameUtcTs := by
  obtain ⟨hc, hIn, hAns, hBuf, hLog, hThis, hPrev, hInt, -⟩ := h
  simp [restartedState, State.withUtc, Registers.withUtc, hc, hIn, hAns, hLog, hThis, hPrev, hInt]

/-- The restart decision reads nothing in which two such states differ: before there is a start it reads nothing else
(R154). -/
theorem AgreeButUnread.needRestart_iff (h : AgreeButUnread s s') (f : Frame) : NeedRestart s' f ↔ NeedRestart s f := by
  by_cases h0 : s.regs.thisTransferMonotonicTs = 0
  · obtain ⟨-, -, -, -, -, hThis, -⟩ := h
    exact iff_of_true (.inl (hThis.trans h0)) (.inl h0)
  · rw [h.eq_withUtc h0]; exact Iff.rfl

/-- Validate and Receive run in states that differ in `first_frame_utc_ts` only (R158). -/
theorem AgreeButUnread.intakeState_eq_withUtc (h : AgreeButUnread s s') (f : Frame) :
    intakeState s' f = (intakeState s f).withUtc s'.regs.firstFrameUtcTs := by
  unfold intakeState
  by_cases hN : NeedRestart s f
  · rw [if_pos hN, if_pos ((h.needRestart_iff f).mpr hN), h.restartedState_eq_withUtc f]
  · rw [if_neg hN, if_neg (mt (h.needRestart_iff f).mp hN)]
    exact h.eq_withUtc fun h0 => hN (.inl h0)

theorem AgreeButUnread.admitted (h : AgreeButUnread s s') (hAdm : Admitted s f) : Admitted s' f := by
  obtain ⟨hc, -, -, -, -, hThis, hPrev, -⟩ := h
  simpa only [Admitted, hc, hThis, hPrev] using hAdm

theorem AgreeButUnread.intake_agrees (h : AgreeButUnread s s') (hIn : intake f s = some t) :
    ∃ t', intake f s' = some t' ∧ AgreeButUnread t t' := by
  have ⟨hc, _, hAns, _⟩ := h
  rcases intake_eq_some.mp hIn with ⟨hN, hF, hNe, rfl⟩ | ⟨hReach, hRec⟩
  · refine ⟨_, intake_eq_some.mpr (.inl ⟨(h.needRestart_iff f).mpr hN, hF, hAns ▸ hNe, rfl⟩), ?_⟩
    rw [h.restartedState_eq_withUtc f, hc]
    exact agreeButUnread_withUtc s'.regs.firstFrameUtcTs _
  · obtain ⟨v, hRec'⟩ := validateAndReceive_withUtc s'.regs.firstFrameUtcTs hRec
    rw [← h.intakeState_eq_withUtc f] at hRec'
    refine ⟨t.withUtc v, intake_eq_some.mpr (.inr ⟨fun hN => ?_, ?_⟩), agreeButUnread_withUtc v t⟩
    · rw [hAns]; exact hReach ((h.needRestart_iff f).mp hN)
    · rw [← hRec', decide_eq_decide.mpr (h.needRestart_iff f)]

theorem AgreeButUnread.execAddFrame_agrees (h : AgreeButUnread s s') (hEx : execAddFrame f s = .next t) :
    ∃ t', execAddFrame f s' = .next t' ∧ AgreeButUnread t t' := by
  have ⟨hc, _⟩ := h
  rcases execAddFrame_eq_next.mp hEx with ⟨hR, rfl⟩ | ⟨hR, hZ, rfl⟩ | ⟨hR, hZ, hNot, rfl⟩ | ⟨hAdm, hIn⟩
  · exact ⟨_, execAddFrame_eq_next.mpr (.inl ⟨hc ▸ hR, rfl⟩), h.answering _⟩
  · exact ⟨_, execAddFrame_eq_next.mpr (.inr (.inl ⟨hc ▸ hR, hZ, rfl⟩)), h.answering _⟩
  · exact ⟨_, execAddFrame_eq_next.mpr (.inr (.inr (.inl ⟨hc ▸ hR, hZ, fun hA => hNot (h.symm.admitted hA), rfl⟩))),
      h.answering _⟩
  · obtain ⟨t', hIn', hAgree⟩ := h.intake_agrees hIn
    exact ⟨t', execAddFrame_eq_next.mpr (.inr (.inr (.inr ⟨h.admitted hAdm, hIn'⟩))), hAgree⟩

/-- CHECK_TIMEOUT reads registers in which two such states agree (spec/40_tid_and_timing.md R105). -/
theorem AgreeButUnread.isTimedOut_eq (h : AgreeButUnread s s') (ts : BitVec 64) :
    isTimedOut s'.config s'.regs ts = isTimedOut s.config s.regs ts := by
  obtain ⟨hc, -, -, -, -, hThis, -, hInt, -⟩ := h
  simp only [isTimedOut, hc, hThis, hInt]

/-- RESET makes the registers of two such states equal. -/
theorem AgreeButUnread.reset_eq (h : AgreeButUnread s s') :
    { s' with regs := Registers.reset s'.config } = { s with regs := Registers.reset s.config } := by
  obtain ⟨hc, hIn, hAns, hBuf, hLog, -⟩ := h
  simp only [hc, hIn, hAns, hBuf, hLog]

theorem AgreeButUnread.exec_agrees {i : Instr} (hi : ∀ r reg, i ≠ .readReg r reg) (h : AgreeButUnread s s')
    (hEx : exec i s = .next t) : ∃ t', exec i s' = .next t' ∧ AgreeButUnread t t' := by
  cases i with
  | readReg r reg => exact absurd rfl (hi r reg)
  | addFrame f => exact h.execAddFrame_agrees hEx
  | nop r =>
    obtain ⟨ws, hWs⟩ := execNop_answers r
    cases (hWs s).symm.trans hEx
    exact ⟨_, hWs s', h.answering ws⟩
  | checkTimeout r ts =>
    obtain ⟨ws, hWs⟩ := execCheckTimeout_answers r ts
    cases (hWs s).symm.trans hEx
    exact ⟨_, hWs s', h.isTimedOut_eq ts ▸ h.answering _⟩
  | reset r =>
    obtain ⟨ws, hWs | hWs⟩ := execReset_cases r
    · cases (hWs s).symm.trans hEx
      exact ⟨_, hWs s', h.answering ws⟩
    · cases (hWs s).symm.trans hEx
      refine ⟨_, hWs s', ?_⟩
      rw [h.reset_eq]
      exact agreeButUnread_withUtc 0 _

end Sys2Proof.Machine

open Sys2Proof Sys2Proof.Machine

/-- Settles O42. A state that differs only where nothing reads runs alike; the relation is symmetric, so a command that
is stuck from one such state cannot have a next state from the other. -/
theorem unreadRegistersCannotBeSeen : Obligations.UnreadRegistersCannotBeSeen := by
  intro i s s' hi hAgree
  refine ⟨fun t hEx => hAgree.exec_agrees hi hEx, fun r hEx => ?_⟩
  rcases exec_next_or_fault i s' with ⟨t', hEx'⟩ | hFault
  · obtain ⟨t, hEx'', -⟩ := hAgree.symm.exec_agrees hi hEx'
    rw [hEx] at hEx''
    cases hEx''
  · cases r; exact hFault

end

section
/-! What the intake of an ADD_FRAME writes: the registers that Receive can leave, those that the whole intake can leave
with the status word of its answer, and, register by register, the only writers (spec/10_state.md R22 to R30). -/

namespace Sys2Proof.Machine

/-- The registers once a frame of a multi-frame transfer is written, before a completion
(spec/41_validation_and_reassembly.md R131, R137, R141). -/
def takenRegisters (f : Frame) (r : Registers) : Registers :=
  { advanceWritePos (payloadSlice f).length (captureCrc f (captureTimestamps f r)) with
    nextFrameIndex := r.nextFrameIndex + 1 }

section TakenFields
variable (f : Frame) (r : Registers)

@[simp] theorem takenRegisters_ifaceIndex : (takenRegisters f r).ifaceIndex = r.ifaceIndex := rfl
@[simp] theorem takenRegisters_tid : (takenRegisters f r).tid = r.tid := rfl
@[simp] theorem takenRegisters_nextFrameIndex : (takenRegisters f r).nextFrameIndex = r.nextFrameIndex + 1 := rfl
@[simp] theorem takenRegisters_bufferWritePos :
    (takenRegisters f r).bufferWritePos = r.bufferWritePos + BitVec.ofNat 16 (payloadSlice f).length := rfl
@[simp] theorem takenRegisters_thisTransferMonotonicTs :
    (takenRegisters f r).thisTransferMonotonicTs =
      if f.isFirstFrame then f.monotonicTimestamp else r.thisTransferMonotonicTs := rfl
@[simp] theorem takenRegisters_prevTransferMonotonicTs :
    (takenRegisters f r).prevTransferMonotonicTs = r.prevTransferMonotonicTs := rfl
@[simp] theorem takenRegisters_firstFrameUtcTs :
    (takenRegisters f r).firstFrameUtcTs = if f.isFirstFrame then f.utcTimestamp else r.firstFrameUtcTs := rfl
@[simp] theorem takenRegisters_thisTransferCrc :
    (takenRegisters f r).thisTransferCrc = if f.isFirstFrame then extractCrc f.payload else r.thisTransferCrc := rfl
@[simp] theorem takenRegisters_transferInterval : (takenRegisters f r).transferInterval = r.transferInterval := rfl

end TakenFields

/-- The registers that Receive can leave, with its result and DIAG code (R138 to R143). -/
inductive ReceiveWrites (c : Config) (f : Frame) (r : Registers) : ResultCode → Diag → Registers → Prop where
  | singleFrame : f.isFirstFrame = true → f.isLastFrame = true →
      ReceiveWrites c f r .singleFrame .ok (completeSingleFrame c (captureTimestamps f r))
  | noBuffer : ReceiveWrites c f r .notComplete .noBuffer (abortReset c (captureTimestamps f r))
  | writeFailed :
      ReceiveWrites c f r .notComplete .writeFailed (abortReset c (captureCrc f (captureTimestamps f r)))
  | taken : f.isLastFrame = false → ReceiveWrites c f r .notComplete .ok (takenRegisters f r)
  | completed : f.isLastFrame = true →
      ReceiveWrites c f r .complete .ok (prepareForNextTransfer c (updateTransferTimings c (takenRegisters f r)))

/-- The registers that the intake can leave, with the status word it answers (spec/42_add_frame.md R156 to R158). -/
inductive IntakeWrites (s : State) (f : Frame) : Word → Registers → Prop where
  | dropped : NeedRestart s f →
      IntakeWrites s f 0x1130 { restartRegisters f s.regs with tid := followingTid s.config f.transferId }
  | rejected (d : Diag) (b : Bool) :
      IntakeWrites s f (addFrameStatus .notComplete d b).word (intakeState s f).regs
  | received (res : ResultCode) (d : Diag) (b : Bool) (r : Registers) : Validated (intakeState s f) f →
      ReceiveWrites s.config f (intakeState s f).regs res d r →
      IntakeWrites s f (addFrameStatus res d b).word r

variable {c : Config} {f : Frame} {r r' : Registers} {s t : State} {res : ResultCode} {d : Diag} {w : Word}

/-! Every outcome of Receive and of the intake is one of these. -/

/-- The known bytes of a buffer just acquired are in canonical form. -/
theorem Acquires.wf {evs : List PortEvent} {bytes : Memory} {rest : List BufAnswer} (h : Acquires s evs bytes rest)
    (hWf : s.BufferWf) : bytes.Wf := by
  rcases h with ⟨a, -, -, -, rfl⟩ | ⟨a, b, -, -, -, -, rfl⟩
  · exact hWf
  · exact List.Pairwise.nil

theorem bufferWf_of_none (h : t.buffer = none) : t.BufferWf := by
  rw [State.BufferWf, h]; exact List.Pairwise.nil

/-- What Receive changes: the registers as one of `ReceiveWrites`, never the configuration, and the bytes of the buffer
within their canonical form. -/
theorem receive_effect (h : receive f s = some (res, d, t)) :
    t.config = s.config ∧ ReceiveWrites s.config f s.regs res d t.regs ∧ (s.BufferWf → t.BufferWf) := by
  rw [receive_eq] at h
  split at h
  · next hS =>
    obtain ⟨a, rest, -, rfl, rfl, rfl⟩ := receiveSingleFrame_eq_some.mp h
    exact ⟨rfl, .singleFrame hS.1 hS.2, fun _ => bufferWf_of_none rfl⟩
  · rcases receiveMultiFrame_eq_some.mp h with ⟨a, b, rest, -, -, -, rfl, rfl, rfl⟩ |
      ⟨evs, bytes, w, a, rest, -, -, rfl, rfl, rfl⟩ | ⟨evs, bytes, w, rest, hAcq, -, hTake⟩
    · exact ⟨rfl, .noBuffer, fun _ => bufferWf_of_none rfl⟩
    · exact ⟨rfl, .writeFailed, fun _ => bufferWf_of_none rfl⟩
    · unfold takeFrame at hTake
      split at hTake
      · next hLast =>
        cases hTake
        exact ⟨rfl, .completed hLast, fun hWf => writtenBuffer_wf (m := some bytes) (hAcq.wf hWf) _ _ _⟩
      · next hLast =>
        cases hTake
        exact ⟨rfl, .taken (by simpa using hLast),
          fun hWf => writtenBuffer_wf (m := some bytes) (hAcq.wf hWf) _ _ _⟩

theorem intakeState_config (s : State) (f : Frame) : (intakeState s f).config = s.config := by
  unfold intakeState; split <;> rfl

theorem intakeState_regs (s : State) (f : Frame) :
    (intakeState s f).regs = if NeedRestart s f then restartRegisters f s.regs else s.regs := by
  unfold intakeState; split <;> rfl

theorem intakeState_bufferWf (hWf : s.BufferWf) (f : Frame) : (intakeState s f).BufferWf := by
  unfold intakeState
  split
  · exact bufferWf_of_none rfl
  · exact hWf

theorem answering_getLast? (s : State) (ws : List Word) : (s.answering ws).portLog.getLast? = some (.response ws) := by
  simp

/-- What the intake changes: the registers as one of `IntakeWrites`, never the configuration, and the bytes of the
buffer within their canonical form; its answer is the last event on the ports. -/
theorem intake_effect (h : intake f s = some t) :
    t.config = s.config ∧ (s.BufferWf → t.BufferWf) ∧
      ∃ w, IntakeWrites s f w t.regs ∧ t.portLog.getLast? = some (.response [w]) := by
  rcases intake_eq_some.mp h with ⟨hN, -, -, rfl⟩ | ⟨-, hVR⟩
  · exact ⟨rfl, fun _ => bufferWf_of_none rfl, _, .dropped hN, answering_getLast? _ _⟩
  · rcases validateAndReceive_eq_some.mp hVR with ⟨d, -, rfl⟩ | ⟨hVal, res, d, s1, hRec, rfl⟩
    · exact ⟨intakeState_config s f, fun hWf => intakeState_bufferWf hWf f, _, .rejected d _, answering_getLast? _ _⟩
    · obtain ⟨hc, hRegs, hBuf⟩ := receive_effect hRec
      rw [intakeState_config] at hc hRegs
      exact ⟨hc, fun hWf => hBuf (intakeState_bufferWf hWf f), _, .received res d _ _ hVal hRegs,
        answering_getLast? _ _⟩

/-! Receive, register by register. -/

theorem ReceiveWrites.ifaceIndex_eq (h : ReceiveWrites c f r res d r') : r'.ifaceIndex = r.ifaceIndex := by
  cases h <;> rfl

theorem ReceiveWrites.tid_cases (h : ReceiveWrites c f r res d r') :
    r'.tid = r.tid ∨ res ≠ .notComplete ∨ (c.abortTidPolicy = .advance ∧ (d = .noBuffer ∨ d = .writeFailed)) := by
  cases h with
  | singleFrame => simp
  | noBuffer => cases hp : c.abortTidPolicy <;> simp [tidAfterAbort, hp]
  | writeFailed => cases hp : c.abortTidPolicy <;> simp [tidAfterAbort, hp]
  | taken => exact .inl rfl
  | completed => simp

theorem ReceiveWrites.diag_cases (h : ReceiveWrites c f r res d r') : d = .ok ∨ d = .noBuffer ∨ d = .writeFailed := by
  cases h <;> simp

theorem ReceiveWrites.thisTs_eq (h : ReceiveWrites c f r res d r') :
    r'.thisTransferMonotonicTs = if f.isFirstFrame then f.monotonicTimestamp else r.thisTransferMonotonicTs := by
  cases h <;> rfl

theorem ReceiveWrites.firstFrameUtcTs_eq (h : ReceiveWrites c f r res d r') :
    r'.firstFrameUtcTs = if f.isFirstFrame then f.utcTimestamp else r.firstFrameUtcTs := by
  cases h <;> rfl

/-- The previous start and the interval are written by a completion only (spec/40_tid_and_timing.md R110). -/
theorem ReceiveWrites.timings_cases (h : ReceiveWrites c f r res d r') :
    (r'.prevTransferMonotonicTs = r.prevTransferMonotonicTs ∧ r'.transferInterval = r.transferInterval) ∨
      (res ≠ .notComplete ∧ r'.prevTransferMonotonicTs = r'.thisTransferMonotonicTs ∧
        r'.transferInterval = trackedInterval c (captureTimestamps f r)) := by
  cases h with
  | singleFrame => exact .inr ⟨by simp, rfl, rfl⟩
  | noBuffer => exact .inl ⟨rfl, rfl⟩
  | writeFailed => exact .inl ⟨rfl, rfl⟩
  | taken => exact .inl ⟨rfl, rfl⟩
  | completed => exact .inr ⟨by simp, rfl, rfl⟩

theorem ReceiveWrites.thisTransferCrc_cases (h : ReceiveWrites c f r res d r') :
    r'.thisTransferCrc = r.thisTransferCrc ∨ f.isFirstFrame = true := by
  cases hF : f.isFirstFrame with
  | true => exact .inr rfl
  | false =>
    left
    cases h with
    | singleFrame hF' => rw [hF] at hF'; cases hF'
    | _ => simp [hF]

/-! The status word of the answer (spec/30_encoding.md R80). -/

@[simp] theorem resultField_addFrameStatus (res : ResultCode) (d : Diag) (b : Bool) :
    resultField (addFrameStatus res d b).word = res.code := by
  cases res <;> cases d <;> cases b <;> rfl

@[simp] theorem diagField_addFrameStatus (res : ResultCode) (d : Diag) (b : Bool) :
    diagField (addFrameStatus res d b).word = d.code := by
  cases res <;> cases d <;> cases b <;> rfl

theorem ResultCode.code_ne_zero (h : res ≠ .notComplete) : res.code ≠ 0 := by
  cases res with
  | notComplete => exact absurd rfl h
  | complete => decide
  | singleFrame => decide

/-- The words of a command's response are the last event it put on the ports. -/
theorem Emitted.getLast? {txs : List PortEvent} {data : List Word} (h : Emitted s t txs w data) :
    t.portLog.getLast? = some (.response (w :: data)) := by
  obtain ⟨hLog, -⟩ := h
  simp [hLog]

/-! The intake, register by register. Without a restart Validate and Receive run on the registers as they stand; a
restart leaves the timestamps and the interval. -/

theorem intakeState_regs_of_not (h : ¬NeedRestart s f) : (intakeState s f).regs = s.regs := by
  rw [intakeState_regs, if_neg h]

theorem intakeState_thisTs (s : State) (f : Frame) :
    (intakeState s f).regs.thisTransferMonotonicTs = s.regs.thisTransferMonotonicTs := by
  rw [intakeState_regs]; split <;> rfl

theorem intakeState_prevTs (s : State) (f : Frame) :
    (intakeState s f).regs.prevTransferMonotonicTs = s.regs.prevTransferMonotonicTs := by
  rw [intakeState_regs]; split <;> rfl

theorem intakeState_firstFrameUtcTs (s : State) (f : Frame) :
    (intakeState s f).regs.firstFrameUtcTs = s.regs.firstFrameUtcTs := by
  rw [intakeState_regs]; split <;> rfl

theorem intakeState_transferInterval (s : State) (f : Frame) :
    (intakeState s f).regs.transferInterval = s.regs.transferInterval := by
  rw [intakeState_regs]; split <;> rfl

/-- `iface_index` (spec/10_state.md R22). -/
theorem IntakeWrites.ifaceIndex_cases (h : IntakeWrites s f w r) :
    r.ifaceIndex = s.regs.ifaceIndex ∨ NeedRestart s f := by
  refine or_iff_not_imp_right.mpr fun hN => ?_
  rw [← intakeState_regs_of_not hN]
  cases h with
  | dropped hN' => exact absurd hN' hN
  | rejected => rfl
  | received _ _ _ _ _ hRec => exact hRec.ifaceIndex_eq

/-- `tid` (R23). -/
theorem IntakeWrites.tid_cases (h : IntakeWrites s f w r) :
    r.tid = s.regs.tid ∨ NeedRestart s f ∨ resultField w ≠ 0 ∨
      (s.config.abortTidPolicy = .advance ∧ (diagField w = 0x9 ∨ diagField w = 0xA)) := by
  by_cases hN : NeedRestart s f
  · exact .inr (.inl hN)
  · rw [← intakeState_regs_of_not hN]
    cases h with
    | dropped hN' => exact absurd hN' hN
    | rejected => exact .inl rfl
    | received res d b _ _ hRec =>
      rw [resultField_addFrameStatus, diagField_addFrameStatus]
      rcases hRec.tid_cases with hEq | hRes | ⟨hPol, rfl | rfl⟩
      · exact .inl hEq
      · exact .inr (.inr (.inl (ResultCode.code_ne_zero hRes)))
      · exact .inr (.inr (.inr ⟨hPol, .inl rfl⟩))
      · exact .inr (.inr (.inr ⟨hPol, .inr rfl⟩))

/-- `next_frame_index` and `buffer_write_pos` (R24, R25). -/
theorem IntakeWrites.counters_cases (h : IntakeWrites s f w r) :
    (r.nextFrameIndex = s.regs.nextFrameIndex ∧ r.bufferWritePos = s.regs.bufferWritePos) ∨
      NeedRestart s f ∨ diagField w = 0x0 ∨ diagField w = 0x9 ∨ diagField w = 0xA := by
  by_cases hN : NeedRestart s f
  · exact .inr (.inl hN)
  · cases h with
    | dropped hN' => exact absurd hN' hN
    | rejected => rw [intakeState_regs_of_not hN]; exact .inl ⟨rfl, rfl⟩
    | received res d b _ _ hRec =>
      rw [diagField_addFrameStatus]
      rcases hRec.diag_cases with rfl | rfl | rfl <;> simp [Diag.code]

/-- `this_transfer_monotonic_ts` (R26). -/
theorem IntakeWrites.thisTs_cases (h : IntakeWrites s f w r) :
    r.thisTransferMonotonicTs = s.regs.thisTransferMonotonicTs ∨
      (f.isFirstFrame = true ∧ r.thisTransferMonotonicTs = f.monotonicTimestamp) := by
  cases h with
  | dropped => exact .inl rfl
  | rejected => exact .inl (intakeState_thisTs s f)
  | received _ _ _ _ _ hRec =>
    rw [hRec.thisTs_eq, intakeState_thisTs]
    cases f.isFirstFrame <;> simp

/-- `first_frame_utc_ts` (R28). -/
theorem IntakeWrites.firstFrameUtcTs_cases (h : IntakeWrites s f w r) :
    r.firstFrameUtcTs = s.regs.firstFrameUtcTs ∨ (f.isFirstFrame = true ∧ r.firstFrameUtcTs = f.utcTimestamp) := by
  cases h with
  | dropped => exact .inl rfl
  | rejected => exact .inl (intakeState_firstFrameUtcTs s f)
  | received _ _ _ _ _ hRec =>
    rw [hRec.firstFrameUtcTs_eq, intakeState_firstFrameUtcTs]
    cases f.isFirstFrame <;> simp

/-- `prev_transfer_monotonic_ts` and `transfer_interval` (R27, R30). -/
theorem IntakeWrites.timings_cases (h : IntakeWrites s f w r) :
    (r.prevTransferMonotonicTs = s.regs.prevTransferMonotonicTs ∧
        r.transferInterval = s.regs.transferInterval) ∨
      (resultField w ≠ 0 ∧ r.prevTransferMonotonicTs = r.thisTransferMonotonicTs) := by
  rw [← intakeState_prevTs s f, ← intakeState_transferInterval s f]
  cases h with
  | dropped => exact .inl ⟨(intakeState_prevTs s f).symm, (intakeState_transferInterval s f).symm⟩
  | rejected => exact .inl ⟨rfl, rfl⟩
  | received res d b _ _ hRec =>
    rw [resultField_addFrameStatus]
    exact hRec.timings_cases.imp_right fun ⟨hRes, hPrev, _⟩ => ⟨ResultCode.code_ne_zero hRes, hPrev⟩

/-- `this_transfer_crc` (R29). -/
theorem IntakeWrites.thisTransferCrc_cases (h : IntakeWrites s f w r) :
    r.thisTransferCrc = s.regs.thisTransferCrc ∨ f.isFirstFrame = true ∨ NeedRestart s f := by
  by_cases hN : NeedRestart s f
  · exact .inr (.inr hN)
  · rw [← intakeState_regs_of_not hN]
    cases h with
    | dropped hN' => exact absurd hN' hN
    | rejected => exact .inl rfl
    | received _ _ _ _ _ hRec => exact hRec.thisTransferCrc_cases.imp_right .inl

/-- The start timestamps stay in order where the frame is no older than them (R36). -/
theorem IntakeWrites.timestampsOrdered (h : IntakeWrites s f w r) (hAdm : Admitted s f)
    (hOrd : s.regs.TimestampsOrdered) : r.TimestampsOrdered := by
  obtain ⟨-, -, hPrev, -⟩ := hAdm
  rcases h.timings_cases with ⟨hKept, -⟩ | ⟨-, hCopied⟩
  · unfold Registers.TimestampsOrdered
    rw [hKept]
    rcases h.thisTs_cases with hThis | ⟨-, hThis⟩
    · rw [hThis]; exact hOrd
    · rw [hThis]; exact hPrev
  · exact (congrArg BitVec.toNat hCopied).le

end Sys2Proof.Machine

open Sys2Proof Sys2Proof.Machine

/-- Settles O30. A command that only answers writes nothing, and the intake of an ADD_FRAME writes each register in the
cases its own lemma names; the status word is the one it answered, the last event on the ports. -/
theorem registersAreWrittenOnlyByTheirWriters : Obligations.RegistersAreWrittenOnlyByTheirWriters := by
  intro i s t txs w data hi hEx hEm
  rcases exec_cases hEx with ⟨ws, rfl⟩ | ⟨⟨r, rfl⟩, -⟩ | ⟨f, rfl, -, hIn⟩
  · simp
  · exact absurd rfl (hi r)
  · obtain ⟨-, -, w', hW, hLast⟩ := intake_effect hIn
    obtain ⟨rfl, -⟩ : w' = w ∧ data = [] := by simpa using hLast.symm.trans hEm.getLast?
    refine ⟨fun h => ⟨f, rfl, hW.ifaceIndex_cases.resolve_left h⟩, fun h => ⟨f, rfl, hW.tid_cases.resolve_left h⟩,
      fun h => ⟨f, rfl, hW.counters_cases.resolve_left (by tauto)⟩,
      fun h => ⟨f, rfl, hW.thisTs_cases.resolve_left h⟩, fun h => ⟨f, rfl, hW.firstFrameUtcTs_cases.resolve_left h⟩,
      fun h => hW.timings_cases.resolve_left fun hKept => h hKept.1,
      fun h => (hW.timings_cases.resolve_left fun hKept => h hKept.2).1,
      fun h => ⟨f, rfl, hW.thisTransferCrc_cases.resolve_left h⟩⟩

/-- Settles O41. RESET sets both starts to 0; an admitted frame is no older than either start and has a timestamp other
than 0, so a start it writes keeps the order and does not go back. -/
theorem startTimestampsNeverRegress : Obligations.StartTimestampsNeverRegress := by
  intro i s t hOrd hEx
  have hStep : t.regs.TimestampsOrdered ∧ ((∀ r, i ≠ .reset r) →
      s.regs.thisTransferMonotonicTs.toNat ≤ t.regs.thisTransferMonotonicTs.toNat ∧
      (s.regs.thisTransferMonotonicTs ≠ 0 → t.regs.thisTransferMonotonicTs ≠ 0)) := by
    rcases exec_cases hEx with ⟨ws, rfl⟩ | ⟨⟨r, rfl⟩, ws, rfl⟩ | ⟨f, rfl, hAdm, hIn⟩
    · exact ⟨hOrd, fun _ => ⟨le_rfl, id⟩⟩
    · exact ⟨le_rfl, fun hi => absurd rfl (hi r)⟩
    · obtain ⟨-, -, w, hW, -⟩ := intake_effect hIn
      refine ⟨hW.timestampsOrdered hAdm hOrd, fun _ => ?_⟩
      obtain ⟨-, hNonzero, -, hThis⟩ := hAdm
      rcases hW.thisTs_cases with hEq | ⟨-, hEq⟩
      · rw [hEq]; exact ⟨le_rfl, id⟩
      · rw [hEq]; exact ⟨hThis, fun _ => hNonzero⟩
  exact ⟨hStep.1, fun f hOld => hOld.trans_le hStep.1, hStep.2⟩

end

section
/-! The invariant of spec/10_state.md R35 and R36: each write of the intake keeps the bounds of R35, and the reset state
meets them. -/

namespace Sys2Proof.Machine

variable {c : Config} {f : Frame} {r r' : Registers} {s t : State} {res : ResultCode} {d : Diag} {w : Word}

theorem tidIncrement_lt (c : Config) (a : BitVec 8) : (tidIncrement c a).toNat < 2 ^ c.bitlen := by
  rw [tidIncrement, BitVec.toNat_ofNat]
  exact (Nat.mod_le _ _).trans_lt (Nat.mod_lt _ (Nat.two_pow_pos _))

theorem tidAfterAbort_lt {a : BitVec 8} (h : a.toNat < 2 ^ c.bitlen) : (tidAfterAbort c a).toNat < 2 ^ c.bitlen := by
  unfold tidAfterAbort
  split
  · exact tidIncrement_lt c a
  · exact h

theorem clamp_bounds {v lo hi : Nat} (h : lo ≤ hi) : lo ≤ clamp v lo hi ∧ clamp v lo hi ≤ hi := by
  unfold clamp; omega

/-- The interval a completion leaves is within the clamps, as the one before was (spec/40_tid_and_timing.md R111). -/
theorem trackedInterval_bounds
    (h : c.minTransferInterval.toNat ≤ r.transferInterval.toNat ∧
      r.transferInterval.toNat ≤ c.maxTransferInterval.toNat) :
    c.minTransferInterval.toNat ≤ (trackedInterval c r).toNat ∧
      (trackedInterval c r).toNat ≤ c.maxTransferInterval.toNat := by
  simp only [trackedInterval]
  split
  · have hSmooth := smoothedInterval_bounds h (clamp_bounds (h.1.trans h.2) :
      _ ∧ clamp (r.thisTransferMonotonicTs.toNat - r.prevTransferMonotonicTs.toNat) _ _ ≤ _)
    rw [BitVec.toNat_ofNat, Nat.mod_eq_of_lt (hSmooth.2.trans_lt c.maxTransferInterval.isLt)]
    exact hSmooth
  · exact h

theorem payloadSlice_length_le (f : Frame) : (payloadSlice f).length ≤ f.payloadLen := by
  unfold payloadSlice
  split
  · simp
  · exact le_rfl

/-- Neither counter wraps where a validated frame that is not the last is taken in (R35). -/
theorem takenRegisters_counters_bounded (hc : c.Valid) (hf : f.InRange c) (hIdx : f.frameIndex = r.nextFrameIndex)
    (hMore : f.frameIndex.toNat ≠ c.frameIndexMax)
    (hPos : r.bufferWritePos.toNat ≤ r.nextFrameIndex.toNat * c.payloadMax) :
    (takenRegisters f r).nextFrameIndex.toNat ≤ c.frameIndexMax ∧
      (takenRegisters f r).bufferWritePos.toNat ≤ (takenRegisters f r).nextFrameIndex.toNat * c.payloadMax := by
  obtain ⟨-, ⟨-, hMax⟩, ⟨-, hPay⟩, -⟩ := hc
  obtain ⟨-, hLe, hLen⟩ := hf
  have hSlice := (payloadSlice_length_le f).trans hLen
  have hNext : (takenRegisters f r).nextFrameIndex.toNat = r.nextFrameIndex.toNat + 1 := by
    rw [takenRegisters_nextFrameIndex, ← hIdx, BitVec.toNat_add_of_lt (by simp; omega)]
    rfl
  have hSum : r.bufferWritePos.toNat + (payloadSlice f).length ≤ (r.nextFrameIndex.toNat + 1) * c.payloadMax := by
    rw [Nat.succ_mul]; exact Nat.add_le_add hPos hSlice
  have hSmall : (r.nextFrameIndex.toNat + 1) * c.payloadMax < 2 ^ 16 :=
    (Nat.mul_le_mul (Nat.succ_le_of_lt r.nextFrameIndex.isLt) hPay).trans_lt (by decide)
  rw [hNext, takenRegisters_bufferWritePos, BitVec.toNat_add, BitVec.toNat_ofNat, Nat.add_mod_mod,
    Nat.mod_eq_of_lt (hSum.trans_lt hSmall)]
  exact ⟨by rw [← hIdx]; omega, hSum⟩

/-- Receive keeps the bounds of R35, from the registers of a validated frame. -/
theorem ReceiveWrites.bounded (h : ReceiveWrites c f r res d r') (hc : c.Valid) (hf : f.InRange c)
    (hIdx : f.frameIndex = r.nextFrameIndex) (hEnd : ¬(f.frameIndex.toNat = c.frameIndexMax ∧ f.isLastFrame = false))
    (hb : r.Bounded c) : r'.Bounded c := by
  obtain ⟨hTid, -, hPos, hInt⟩ := hb
  cases h with
  | singleFrame => exact ⟨tidIncrement_lt c _, Nat.zero_le _, Nat.zero_le _, trackedInterval_bounds hInt⟩
  | noBuffer => exact ⟨tidAfterAbort_lt hTid, Nat.zero_le _, Nat.zero_le _, hInt⟩
  | writeFailed => exact ⟨tidAfterAbort_lt hTid, Nat.zero_le _, Nat.zero_le _, hInt⟩
  | taken hLast =>
    obtain ⟨hNext, hWrote⟩ := takenRegisters_counters_bounded hc hf hIdx (fun hEq => hEnd ⟨hEq, hLast⟩) hPos
    exact ⟨hTid, hNext, hWrote, hInt⟩
  | completed => exact ⟨tidIncrement_lt c _, Nat.zero_le _, Nat.zero_le _, trackedInterval_bounds hInt⟩

/-- A restart on a frame in range keeps the bounds of R35 (spec/42_add_frame.md R156). -/
theorem intakeState_bounded (hf : f.InRange s.config) (hb : s.regs.Bounded s.config) :
    (intakeState s f).regs.Bounded s.config := by
  rw [intakeState_regs]
  obtain ⟨hTid, hIdx, hPos, hInt⟩ := hb
  split
  · exact ⟨hf.1, Nat.zero_le _, Nat.zero_le _, hInt⟩
  · exact ⟨hTid, hIdx, hPos, hInt⟩

theorem IntakeWrites.bounded (h : IntakeWrites s f w r) (hc : s.config.Valid) (hf : f.InRange s.config)
    (hb : s.regs.Bounded s.config) : r.Bounded s.config := by
  cases h with
  | dropped =>
    obtain ⟨-, -, -, hInt⟩ := hb
    exact ⟨tidIncrement_lt _ _, Nat.zero_le _, Nat.zero_le _, hInt⟩
  | rejected => exact intakeState_bounded hf hb
  | received res d b _ hVal hRec =>
    obtain ⟨-, -, hEnd, hIdx, -⟩ := hVal
    rw [intakeState_config] at hEnd
    exact hRec.bounded hc hf hIdx hEnd (intakeState_bounded hf hb)

/-- The reset values are within the bounds of R35 and in the order of R36. -/
theorem reset_bounded (hc : c.Valid) : (Registers.reset c).Bounded c ∧ (Registers.reset c).TimestampsOrdered := by
  obtain ⟨-, -, -, hInt⟩ := hc
  exact ⟨⟨Nat.two_pow_pos _, Nat.zero_le _, Nat.zero_le _, hInt⟩, le_rfl⟩

/-- No command changes the configuration (R33). -/
theorem exec_config {i : Instr} (h : exec i s = .next t) : t.config = s.config := by
  rcases exec_cases h with ⟨ws, rfl⟩ | ⟨-, ws, rfl⟩ | ⟨f, -, -, hIn⟩
  · rfl
  · rfl
  · exact (intake_effect hIn).1

/-- No step changes the configuration (R33). -/
theorem step_config (h : step s = .next t) : t.config = s.config := by
  obtain ⟨-, ⟨rfl, -⟩ | ⟨i, rest, -, hEx⟩ | ⟨op, -, rfl⟩⟩ := step_eq_next.mp h
  · rfl
  · exact exec_config (s := { s with hostIn := rest }) hEx
  · rfl

theorem exec_inv {i : Instr} (hs : s.Inv) (h : exec i s = .next t) : t.Inv := by
  obtain ⟨hc, hb, hOrd, hWf⟩ := hs
  rcases exec_cases h with ⟨ws, rfl⟩ | ⟨-, ws, rfl⟩ | ⟨f, -, hAdm, hIn⟩
  · exact ⟨hc, hb, hOrd, hWf⟩
  · obtain ⟨hb', hOrd'⟩ := reset_bounded hc
    exact ⟨hc, hb', hOrd', hWf⟩
  · obtain ⟨hConf, hBuf, w, hW, -⟩ := intake_effect hIn
    rw [State.Inv, hConf]
    exact ⟨hc, hW.bounded hc hAdm.1 hb, hW.timestampsOrdered hAdm hOrd, hBuf hWf⟩

theorem resetWith_inv (hc : c.Valid) : (State.resetWith c).Inv := by
  obtain ⟨hb, hOrd⟩ := reset_bounded hc
  exact ⟨hc, hb, hOrd, resetWith_bufferWf c⟩

end Sys2Proof.Machine

open Sys2Proof Sys2Proof.Machine

/-- Settles O44. A step takes words from the host port, which the invariant does not mention, and then runs a command or
only answers. -/
theorem everyStepKeepsTheInvariant : Obligations.EveryStepKeepsTheInvariant := by
  intro s t hs hStep
  obtain ⟨-, ⟨rfl, -⟩ | ⟨i, rest, -, hEx⟩ | ⟨op, -, rfl⟩⟩ := step_eq_next.mp hStep
  · exact hs
  · exact exec_inv (s := { s with hostIn := rest }) hs hEx
  · exact hs

/-- Settles O43. -/
theorem resetStateIsGood : Obligations.ResetStateIsGood :=
  ⟨resetWith_inv (by decide), fun _ hc => resetWith_inv hc⟩

end

section
/-! READ_REG: the register map of spec/10_state.md R32, and the configuration rows that no step changes (R33). -/

namespace Sys2Proof.Machine

/-- A 64-bit value as two words, low word first, in numbers (spec/30_encoding.md R80). -/
theorem dwordWords_eq (d : Dword) :
    dwordWords d = [BitVec.ofNat 32 (d.toNat % 2 ^ 32), BitVec.ofNat 32 (d.toNat / 2 ^ 32)] := by
  have hLow : d.extractLsb' 0 32 = BitVec.ofNat 32 (d.toNat % 2 ^ 32) := by
    apply BitVec.eq_of_toNat_eq; simp
  have hHigh : d.extractLsb' 32 32 = BitVec.ofNat 32 (d.toNat / 2 ^ 32) := by
    apply BitVec.eq_of_toNat_eq; simp [Nat.shiftRight_eq_div_pow]
  rw [dwordWords, hLow, hHigh]

/-- READ_REG of a register of the map answers its value, zero-extended to 64 bits, as two numbers. -/
theorem exec_readReg_of_setWidth {s : State} {reg : BitVec 8} {n : Nat} {x : BitVec n} (hn : n ≤ 64)
    (h : readRegister s.config s.regs reg = some (x.setWidth 64)) :
    exec (.readReg 0 reg) s =
      .next (s.answering [0x00003000, BitVec.ofNat 32 (x.toNat % 2 ^ 32), BitVec.ofNat 32 (x.toNat / 2 ^ 32)]) := by
  have hx : (x.setWidth 64).toNat = x.toNat := by
    rw [BitVec.toNat_setWidth, Nat.mod_eq_of_lt (x.isLt.trans_le (Nat.pow_le_pow_right (by decide) hn))]
  rw [← hx, ← dwordWords_eq]
  exact execReadReg_of_register h

theorem toNat_append_eq_add {n m : Nat} (x : BitVec n) (y : BitVec m) : (x ++ y).toNat = x.toNat * 2 ^ m + y.toNat := by
  rw [BitVec.toNat_append, ← Nat.shiftLeft_add_eq_or_of_lt y.isLt, Nat.shiftLeft_eq]

/-- The CONFIG word of a legal configuration is the sum of its fields (R32). -/
theorem configWord_toNat {c : Config} (hc : c.Valid) :
    (configWord c).toNat = c.bitlen + 2 * 2 ^ 4 + (c.abortTidPolicy == .advance).toNat * 2 ^ 7 +
      c.frameIndexMax * 2 ^ 8 + c.payloadMax * 2 ^ 16 := by
  obtain ⟨⟨-, hBits⟩, ⟨-, hIdx⟩, ⟨-, hPay⟩, -⟩ := hc
  unfold configWord
  simp only [toNat_append_eq_add, show (0 : BitVec 8).toNat = 0 from rfl, BitVec.toNat_ofNat, BitVec.toNat_ofBool,
    crcLen,
    Nat.mod_eq_of_lt (show c.bitlen < 2 ^ 4 by omega), Nat.mod_eq_of_lt (show c.frameIndexMax < 2 ^ 8 by omega),
    Nat.mod_eq_of_lt (show c.payloadMax < 2 ^ 8 by omega)]
  omega

/-- The rows 0x10 to 0x13 read the configuration alone (R33). -/
theorem readRegister_configRow (c : Config) {reg : BitVec 8} (hLo : 0x10 ≤ reg.toNat) (hHi : reg.toNat ≤ 0x13) :
    ∃ d, ∀ r, readRegister c r reg = some d := by
  obtain h | h | h | h : reg.toNat = 0x10 ∨ reg.toNat = 0x11 ∨ reg.toNat = 0x12 ∨ reg.toNat = 0x13 := by omega
  all_goals exact ⟨_, fun r => by simp only [readRegister, h]; rfl⟩

end Sys2Proof.Machine

open Sys2Proof Sys2Proof.Machine

/-- Settles O17. -/
theorem configurationIsConstant : Obligations.ConfigurationIsConstant := by
  intro s t hStep
  have hConf := step_config hStep
  refine ⟨hConf, fun reg hLo hHi => ?_⟩
  obtain ⟨d, hd⟩ := readRegister_configRow s.config hLo hHi
  exact ⟨_, execReadReg_of_register (hd s.regs), execReadReg_of_register (hConf ▸ hd t.regs)⟩

/-- Settles O5, row by row of the register map. -/
theorem readRegAnswersTheRegister : Obligations.ReadRegAnswersTheRegister := by
  intro s
  constructor
  · intro reg v hRow
    simp only [List.mem_cons, List.not_mem_nil, or_false, Prod.mk.injEq] at hRow
    rcases hRow with ⟨rfl, rfl⟩ | ⟨rfl, rfl⟩ | ⟨rfl, rfl⟩ | ⟨rfl, rfl⟩ | ⟨rfl, rfl⟩ | ⟨rfl, rfl⟩ | ⟨rfl, rfl⟩ |
      ⟨rfl, rfl⟩ | ⟨rfl, rfl⟩ | ⟨rfl, rfl⟩ | ⟨rfl, rfl⟩ | ⟨rfl, rfl⟩
    all_goals exact exec_readReg_of_setWidth (by decide) rfl
  · intro hc
    have hSmall := (configWord s.config).isLt
    rw [exec_readReg_of_setWidth (x := configWord s.config) (by decide) rfl, Nat.mod_eq_of_lt hSmall,
      Nat.div_eq_of_lt hSmall, configWord_toNat hc]
    cases s.config.abortTidPolicy <;> rfl

end

section
/-! The bytes of the buffer that an ADD_FRAME leaves (spec/20_memory.md R51, R57, R58). What runs between two states is
followed with the transactions it issues: one that is neither a BufAccess answered PRESENT nor a BufWrite marks every
path but that of a frame taken in the buffer as it stood, and there the BufWrite is all that changes the bytes. -/

namespace Sys2Proof.Machine

/-- A transaction that neither discards nor makes a buffer: BufAccess answered PRESENT, or BufWrite. -/
def PortEvent.IsAccessOrWrite (e : PortEvent) : Prop := e = .bufAccess .present ∨ ∃ o bs r, e = .bufWrite o bs r

theorem not_isAccessOrWrite_bufRemove : ¬PortEvent.bufRemove.IsAccessOrWrite := by
  simp [PortEvent.IsAccessOrWrite]

theorem not_isAccessOrWrite_bufAccess_absent : ¬(PortEvent.bufAccess .absent).IsAccessOrWrite := by
  simp [PortEvent.IsAccessOrWrite]

/-- The offsets that the BufWrite of frame `f` covers where `s` holds the write position (R58). -/
def InWrite (f : Frame) (s : State) (a : Nat) : Prop :=
  s.regs.bufferWritePos.toNat ≤ a ∧ a < s.regs.bufferWritePos.toNat + (writtenBytes f).length

/-- From `s` to `t` the transactions `evs` were issued; where each is an access or a write, the bytes outside the
frame's write are kept. -/
structure KeepsOtherBytes (f : Frame) (s t : State) (evs : List PortEvent) : Prop where
  log : t.portLog = s.portLog ++ evs
  bytes : (∀ e ∈ evs, e.IsAccessOrWrite) → ∀ a, ¬InWrite f s a → t.bufferByte a = s.bufferByte a

variable {f : Frame} {s t : State} {evs : List PortEvent} {res : ResultCode} {d : Diag} {b : Bool}

theorem KeepsOtherBytes.refl (f : Frame) (s : State) : KeepsOtherBytes f s s [] :=
  ⟨(List.append_nil _).symm, fun _ _ _ => rfl⟩

/-- One other transaction, and there is nothing to show of the bytes. -/
theorem KeepsOtherBytes.of_mem {e : PortEvent} (hLog : t.portLog = s.portLog ++ evs) (hMem : e ∈ evs)
    (he : ¬e.IsAccessOrWrite) : KeepsOtherBytes f s t evs :=
  ⟨hLog, fun hAll => absurd (hAll e hMem) he⟩

/-- A buffer of which no byte is known reads like no buffer. -/
theorem bufferByte_eq_read (s : State) (a : Nat) : s.bufferByte a = Memory.read (s.buffer.getD []) a := by
  unfold State.bufferByte; cases s.buffer <;> rfl

/-- Progress and completion issue no transaction and leave the buffer (spec/41_validation_and_reassembly.md R141 to
R143). -/
theorem takeFrame_ports (h : (res, d, t) = takeFrame f s) : t.portLog = s.portLog ∧ t.buffer = s.buffer := by
  unfold takeFrame at h
  split at h <;> cases h <;> exact ⟨rfl, rfl⟩

/-- A successful BufWrite changes the bytes of the frame's write only (R57, R58). -/
theorem read_writtenBuffer_of_not_inWrite {m : Memory} {answer : BitVec 32} {a : Nat}
    (hOk : writeSucceeds answer (payloadSlice f).length = true) (ha : ¬InWrite f s a) :
    Memory.read ((writtenBuffer (some m) s.regs.bufferWritePos (payloadSlice f) answer).getD []) a = m.read a := by
  rw [writtenBuffer_of_success (writeSucceeds_iff.mp hOk)]
  exact (Memory.read_writeBytes _ _ _ _).trans (if_neg ha)

theorem receiveMultiFrame_keepsOtherBytes (h : receiveMultiFrame f s = some (res, d, t)) :
    ∃ evs, KeepsOtherBytes f s t evs := by
  rcases receiveMultiFrame_eq_some.mp h with ⟨_, _, _, -, -, -, rfl, rfl, rfl⟩ |
    ⟨evs, bytes, w, _, rest, -, -, rfl, rfl, rfl⟩ | ⟨evs, bytes, w, rest, hAcq, hOk, hTake⟩
  · exact ⟨_, .of_mem rfl (by simp) not_isAccessOrWrite_bufAccess_absent⟩
  · refine ⟨evs ++ [.bufWrite s.regs.bufferWritePos (payloadSlice f) w.written] ++ [.bufRemove],
      .of_mem ?_ (by simp) not_isAccessOrWrite_bufRemove⟩
    simp [wroteState]
  · obtain ⟨hLog, hBuf⟩ := takeFrame_ports hTake
    replace hLog : t.portLog =
        s.portLog ++ (evs ++ [.bufWrite s.regs.bufferWritePos (payloadSlice f) w.written]) := by
      rw [hLog, ← List.append_assoc]; rfl
    rcases hAcq with ⟨_, -, -, rfl, rfl⟩ | ⟨_, _, -, -, -, rfl, rfl⟩
    · refine ⟨_, hLog, fun _ a ha => ?_⟩
      rw [bufferByte_eq_read, bufferByte_eq_read, hBuf]
      exact read_writtenBuffer_of_not_inWrite hOk ha
    · exact ⟨_, .of_mem hLog (by simp) not_isAccessOrWrite_bufAccess_absent⟩

/-- The timestamp capture writes no port, no buffer and no write position, so Receive keeps what its paths keep
(spec/41_validation_and_reassembly.md R136, R137). -/
theorem receive_keepsOtherBytes (h : receive f s = some (res, d, t)) : ∃ evs, KeepsOtherBytes f s t evs := by
  rw [receive_eq] at h
  split at h
  · obtain ⟨_, _, -, rfl, rfl, rfl⟩ := receiveSingleFrame_eq_some.mp h
    exact ⟨_, .of_mem rfl (by simp) not_isAccessOrWrite_bufRemove⟩
  · obtain ⟨evs, hKeeps⟩ := receiveMultiFrame_keepsOtherBytes h
    exact ⟨evs, hKeeps.log, hKeeps.bytes⟩

theorem validateAndReceive_keepsOtherBytes (h : validateAndReceive f b s = some t) :
    ∃ s1 ws evs, t = s1.answering ws ∧ KeepsOtherBytes f s s1 evs := by
  rcases validateAndReceive_eq_some.mp h with ⟨_, -, rfl⟩ | ⟨-, _, _, s1, hRec, rfl⟩
  · exact ⟨s, _, [], rfl, .refl f s⟩
  · obtain ⟨evs, hKeeps⟩ := receive_keepsOtherBytes hRec
    exact ⟨s1, _, evs, rfl, hKeeps⟩

/-- Whatever runs after a restart, its BufRemove is among the transactions (spec/42_add_frame.md R156). -/
theorem KeepsOtherBytes.of_restarted (h : KeepsOtherBytes f (restartedState s f) t evs) :
    KeepsOtherBytes f s t (.bufRemove :: evs) := by
  refine .of_mem ?_ List.mem_cons_self not_isAccessOrWrite_bufRemove
  rw [h.log, restartedState_portLog, List.append_assoc]; rfl

theorem intake_keepsOtherBytes (h : intake f s = some t) :
    ∃ s1 ws evs, t = s1.answering ws ∧ KeepsOtherBytes f s s1 evs := by
  rcases intake_eq_some.mp h with ⟨-, -, -, rfl⟩ | ⟨-, hRun⟩
  · exact ⟨_, _, _, rfl, .of_mem rfl List.mem_cons_self not_isAccessOrWrite_bufRemove⟩
  · obtain ⟨s1, ws, evs, rfl, hKeeps⟩ := validateAndReceive_keepsOtherBytes hRun
    unfold intakeState at hKeeps
    split at hKeeps
    · exact ⟨s1, ws, _, rfl, hKeeps.of_restarted⟩
    · exact ⟨s1, ws, evs, rfl, hKeeps⟩

theorem execAddFrame_keepsOtherBytes (h : execAddFrame f s = .next t) :
    ∃ s1 ws evs, t = s1.answering ws ∧ KeepsOtherBytes f s s1 evs := by
  rcases execAddFrame_cases h with ⟨ws, rfl⟩ | ⟨-, hIn⟩
  · exact ⟨s, ws, [], rfl, .refl f s⟩
  · exact intake_keepsOtherBytes hIn

/-- A command that ends with its answer emitted the transactions logged before the answer. -/
theorem Emitted.eq_of_answering {txs : List PortEvent} {w : Word} {data ws : List Word}
    (h : Emitted s (t.answering ws) txs w data) (hLog : t.portLog = s.portLog ++ evs) : txs = evs := by
  obtain ⟨hEmit, -⟩ := h
  rw [State.answering_portLog, hLog] at hEmit
  obtain ⟨hBefore, -⟩ := List.append_inj' hEmit rfl
  exact (List.append_cancel_left hBefore).symm

end Sys2Proof.Machine

open Sys2Proof Sys2Proof.Machine

/-- Settles O29: the transactions emitted are those ADD_FRAME was followed with, and the response leaves the buffer. -/
theorem bytesOutsideTheWriteAreKept : Obligations.BytesOutsideTheWriteAreKept := by
  intro f s t txs w hEx hEmit hTxs a ha
  obtain ⟨s1, ws, evs, rfl, hKeeps⟩ := execAddFrame_keepsOtherBytes hEx
  cases hEmit.eq_of_answering hKeeps.log
  exact hKeeps.bytes hTxs a ha

end

section
/-! The encoding of the host port's packets (spec/30_encoding.md R70 to R79): what the decoder accepts, said once as an
`↔`, and the command fields and payload words read back from an encoding and written back from a header. -/

namespace Sys2Proof

open Sys2Proof.Laws

variable {header : Word} {ops ws rest : List Word} {i : Instr}

/-! Streams of words and whole packets. -/

theorem packetLength_pos (header : Word) : 0 < packetLength header := by
  unfold packetLength
  split
  · omega
  · split <;> omega

/-- A stream decodes to a command exactly when it begins with a whole packet of that command. -/
theorem decode_eq_ok :
    decode ws = .ok (i, rest) ↔ ∃ header ops,
      ws = header :: (ops ++ rest) ∧ ops.length + 1 = packetLength header ∧ decodePacket header ops = .ok i := by
  constructor
  · intro h
    cases ws with
    | nil => cases h
    | cons header tl =>
      rw [decode] at h
      split at h
      · cases h
      · next hLen =>
        split at h
        · next hPkt =>
          cases h
          have hPos := packetLength_pos header
          refine ⟨header, _, by rw [List.take_append_drop], ?_, hPkt⟩
          rw [List.length_take]
          omega
        · cases h
  · rintro ⟨header, ops, rfl, hLen, hPkt⟩
    have hOps : ops.length = packetLength header - 1 := by omega
    rw [decode, if_neg (by rw [List.length_append]; omega), List.take_left' hOps, List.drop_left' hOps, hPkt]

/-! The length of a packet by its OP (R72). -/

theorem packetLength_of_addFrame (h : headerOp header = opAddFrame) :
    packetLength header = 5 + payloadWords (headerPlen header) := if_pos h

theorem packetLength_of_checkTimeout (h : headerOp header = opCheckTimeout) : packetLength header = 3 := by
  simp [packetLength, h, opAddFrame, opCheckTimeout]

theorem packetLength_eq_one (hFrame : headerOp header ≠ opAddFrame) (hTimeout : headerOp header ≠ opCheckTimeout) :
    packetLength header = 1 := by
  rw [packetLength, if_neg hFrame, if_neg hTimeout]

/-- A packet of an OP other than those of ADD_FRAME and CHECK_TIMEOUT is its header. -/
theorem ops_eq_nil {op : BitVec 4} (hOp : headerOp header = op) (hFrame : op ≠ opAddFrame)
    (hTimeout : op ≠ opCheckTimeout) (hLen : ops.length + 1 = packetLength header) : ops = [] := by
  rw [packetLength_eq_one (hOp ▸ hFrame) (hOp ▸ hTimeout)] at hLen
  exact List.length_eq_zero_iff.mp (Nat.succ_injective hLen)

theorem headerPlen_le (header : Word) : headerPlen header ≤ 63 := Nat.le_of_lt_succ (BitVec.isLt _)

/-! The header's fields in numbers. -/

theorem headerPlen_eq (header : Word) : headerPlen header = header.toNat / 2 ^ 20 % 64 := by
  rw [headerPlen, BitVec.extractLsb'_toNat, Nat.shiftRight_eq_div_pow]

theorem headerOp_toNat (header : Word) : (headerOp header).toNat = header.toNat / 2 ^ 28 := by
  have hLt := header.isLt
  rw [headerOp, BitVec.extractLsb'_toNat, Nat.shiftRight_eq_div_pow]
  omega

/-- The OP values without a command (R84). -/
abbrev ReservedOp (op : BitVec 4) : Prop := 0x4 ≤ op.toNat ∧ op.toNat ≤ 0xE

theorem ReservedOp.ne {op op' : BitVec 4} (h : ReservedOp op) (h' : ¬ReservedOp op') : op ≠ op' :=
  fun hEq => h' (hEq ▸ h)

/-! One packet, by its OP (R83). -/

theorem decodePacket_of_nop (h : headerOp header = opNop) (ops : List Word) :
    decodePacket header ops = .ok (.nop (header.extractLsb' 0 28)) := by
  simp [decodePacket, h]

theorem decodePacket_of_addFrame (h : headerOp header = opAddFrame) (ops : List Word) :
    decodePacket header ops = .ok (.addFrame (decodeFrame header ops)) := by
  simp [decodePacket, h, opNop, opAddFrame]

theorem decodePacket_of_checkTimeout (h : headerOp header = opCheckTimeout) (ops : List Word) :
    decodePacket header ops =
      .ok (.checkTimeout (header.extractLsb' 0 28) (dwordOfWords (ops.getD 0 0) (ops.getD 1 0))) := by
  simp [decodePacket, h, opNop, opAddFrame, opCheckTimeout]

theorem decodePacket_of_readReg (h : headerOp header = opReadReg) (ops : List Word) :
    decodePacket header ops = .ok (.readReg (header.extractLsb' 8 20) (header.extractLsb' 0 8)) := by
  simp [decodePacket, h, opNop, opAddFrame, opCheckTimeout, opReadReg]

theorem decodePacket_of_reset (h : headerOp header = opReset) (ops : List Word) :
    decodePacket header ops = .ok (.reset (header.extractLsb' 0 28)) := by
  simp [decodePacket, h, opNop, opAddFrame, opCheckTimeout, opReadReg, opReset]

/-- A packet of OP 0x4 to 0xE is no command (R84). -/
theorem decodePacket_of_reserved (h : ReservedOp (headerOp header)) (ops : List Word) :
    decodePacket header ops = .error (.reservedOp (headerOp header)) := by
  rw [decodePacket, if_neg (h.ne (by decide)), if_neg (h.ne (by decide)),
    if_neg (h.ne (by decide)), if_neg (h.ne (by decide)), if_neg (h.ne (by decide))]

/-- The OP of a packet selects its command (R71), whose operands are fields of the header and the words after it. -/
theorem decodePacket_eq_ok (h : decodePacket header ops = .ok i) :
    headerOp header = i.op ∧
      (i = .nop (header.extractLsb' 0 28) ∨
        i = .addFrame (decodeFrame header ops) ∨
        i = .checkTimeout (header.extractLsb' 0 28) (dwordOfWords (ops.getD 0 0) (ops.getD 1 0)) ∨
        i = .readReg (header.extractLsb' 8 20) (header.extractLsb' 0 8) ∨
        i = .reset (header.extractLsb' 0 28)) := by
  unfold decodePacket at h
  split at h
  · next hOp => cases h; exact ⟨hOp, .inl rfl⟩
  · split at h
    · next hOp => cases h; exact ⟨hOp, .inr (.inl rfl)⟩
    · split at h
      · next hOp => cases h; exact ⟨hOp, .inr (.inr (.inl rfl))⟩
      · split at h
        · next hOp => cases h; exact ⟨hOp, .inr (.inr (.inr (.inl rfl)))⟩
        · split at h
          · next hOp => cases h; exact ⟨hOp, .inr (.inr (.inr (.inr rfl)))⟩
          · cases h

/-! The fields of an encoded frame, and the payload unpacked from its payload words (R73 to R75). -/

/-- Unpacking the payload words gives the payload: the padding stands behind its last byte. -/
theorem unpackPayload_packPayload (p : List Byte) : unpackPayload p.length (packPayload p) = p := by
  induction p using packPayload.induct with
  | case1 => rfl
  | case2 b0 => simp [packPayload, unpackPayload, wordBytes_wordOfBytes]
  | case3 b0 b1 => simp [packPayload, unpackPayload, wordBytes_wordOfBytes]
  | case4 b0 b1 b2 => simp [packPayload, unpackPayload, wordBytes_wordOfBytes]
  | case5 b0 b1 b2 b3 rest ih =>
    unfold unpackPayload at ih
    simp [packPayload, unpackPayload, wordBytes_wordOfBytes, ih]

/-- Every field of the header's frame is the frame's own. -/
theorem decodeFrame_encodeFrameHeader {f : Frame} (hLen : f.payloadLen ≤ 63) :
    decodeFrame (encodeFrameHeader f)
      (dwordWords f.monotonicTimestamp ++ dwordWords f.utcTimestamp ++ packPayload f.payload) = f := by
  have hLast : (encodeFrameHeader f).getLsbD 27 = f.isLastFrame := by
    simp only [encodeFrameHeader, BitVec.getLsbD_append]; simp
  have hFirst : (encodeFrameHeader f).getLsbD 26 = f.isFirstFrame := by
    simp only [encodeFrameHeader, BitVec.getLsbD_append]; simp
  have hIndex : (encodeFrameHeader f).extractLsb' 12 8 = f.frameIndex :=
    (extractLsb'_append_above _ f.ifaceIndex 12 (by decide)).trans <|
      (extractLsb'_append_above _ f.transferId 8 (by decide)).trans BitVec.extractLsb'_append_eq_right
  have hTid : (encodeFrameHeader f).extractLsb' 4 8 = f.transferId :=
    (extractLsb'_append_above _ f.ifaceIndex 4 (by decide)).trans BitVec.extractLsb'_append_eq_right
  have hIface : (encodeFrameHeader f).extractLsb' 0 4 = f.ifaceIndex := BitVec.extractLsb'_append_eq_right
  have hPlen : headerPlen (encodeFrameHeader f) = f.payload.length := by
    rw [headerPlen_encodeFrameHeader, Nat.mod_eq_of_lt (Nat.lt_succ_of_le hLen)]
  simp only [decodeFrame, hLast, hFirst, hIndex, hTid, hIface, hPlen]
  simp [dwordWords, dwordOfWords_dwordWords, unpackPayload_packPayload]

/-! Decode after encode. -/

theorem packetForm (i : Instr) : PacketForm.Statement i := by
  cases i with
  | nop r => exact PacketForm.nop r
  | addFrame f => exact PacketForm.addFrame f
  | checkTimeout r ts => exact PacketForm.checkTimeout r ts
  | readReg r reg => exact PacketForm.readReg r reg
  | reset r => exact PacketForm.reset r

/-- The packet of a command decodes to that command, field by field. -/
theorem decodePacket_encode (hEnc : i.Encodable) (h : encode i = header :: ops) (hOp : headerOp header = i.op) :
    decodePacket header ops = .ok i := by
  cases i with
  | nop r =>
    cases h
    rw [decodePacket_of_nop hOp, BitVec.extractLsb'_append_eq_right]
  | addFrame f =>
    cases h
    rw [decodePacket_of_addFrame hOp, decodeFrame_encodeFrameHeader hEnc]
  | checkTimeout r ts =>
    cases h
    rw [decodePacket_of_checkTimeout hOp, BitVec.extractLsb'_append_eq_right]
    simp [dwordWords, dwordOfWords_dwordWords]
  | readReg r reg =>
    cases h
    rw [decodePacket_of_readReg hOp, BitVec.extractLsb'_append_eq_right,
      extractLsb'_append_above _ reg 8 (by decide), BitVec.extractLsb'_append_eq_right]
  | reset r =>
    cases h
    rw [decodePacket_of_reset hOp, BitVec.extractLsb'_append_eq_right]

/-! Encode after decode. -/

/-- A header is its OP before the 28 bits below it. -/
theorem headerOp_append_operands (header : Word) : headerOp header ++ header.extractLsb' 0 28 = header :=
  (BitVec.extractLsb'_append_extractLsb'_eq_extractLsb' rfl).trans BitVec.extractLsb'_eq_self

theorem headerOp_append_readReg (header : Word) :
    headerOp header ++ header.extractLsb' 8 20 ++ header.extractLsb' 0 8 = header := by
  rw [headerOp, BitVec.extractLsb'_append_extractLsb'_eq_extractLsb' (by rfl),
    BitVec.extractLsb'_append_extractLsb'_eq_extractLsb' (by rfl)]
  exact BitVec.extractLsb'_eq_self

theorem dwordWords_dwordOfWords (lo hi : Word) : dwordWords (dwordOfWords lo hi) = [lo, hi] := by
  rw [dwordWords, dwordOfWords, BitVec.extractLsb'_append_eq_right, BitVec.extractLsb'_append_eq_left]

theorem ofBool_getLsbD {n : Nat} (x : BitVec n) (k : Nat) : BitVec.ofBool (x.getLsbD k) = x.extractLsb' k 1 := by
  ext j hj
  obtain rfl : j = 0 := by omega
  simp

/-- A header of ADD_FRAME is put together again from the fields read from it, where the payload has PLEN bytes. -/
theorem encodeFrameHeader_decodeFrame (hOp : headerOp header = opAddFrame)
    (hLen : (decodeFrame header ops).payloadLen = headerPlen header) :
    encodeFrameHeader (decodeFrame header ops) = header := by
  have hPlen : BitVec.ofNat 6 (headerPlen header) = header.extractLsb' 20 6 := by
    rw [headerPlen, BitVec.ofNat_toNat, BitVec.setWidth_eq]
  calc encodeFrameHeader (decodeFrame header ops)
      = header.extractLsb' 28 4 ++ header.extractLsb' 27 1 ++ header.extractLsb' 26 1 ++ header.extractLsb' 20 6
          ++ header.extractLsb' 12 8 ++ header.extractLsb' 4 8 ++ header.extractLsb' 0 4 := by
        rw [encodeFrameHeader, hLen, hPlen, ← hOp]
        simp only [decodeFrame, ofBool_getLsbD, headerOp]
    _ = header := by
        iterate 6 rw [BitVec.extractLsb'_append_extractLsb'_eq_extractLsb' (by rfl)]
        exact BitVec.extractLsb'_eq_self

/-- A packet that decodes to a command other than ADD_FRAME is that command's encoding. -/
theorem encode_of_decodePacket (hPkt : decodePacket header ops = .ok i) (hLen : ops.length + 1 = packetLength header)
    (hNot : ∀ f, i ≠ .addFrame f) : encode i = header :: ops := by
  obtain ⟨hOp, rfl | rfl | rfl | rfl | rfl⟩ := decodePacket_eq_ok hPkt
  · replace hOp : headerOp header = opNop := hOp
    rw [ops_eq_nil hOp (by decide) (by decide) hLen, encode, ← hOp, headerOp_append_operands]
  · exact absurd rfl (hNot _)
  · replace hOp : headerOp header = opCheckTimeout := hOp
    rw [packetLength_of_checkTimeout hOp] at hLen
    obtain ⟨lo, hi, rfl⟩ := List.length_eq_two.mp (Nat.succ_injective hLen)
    rw [encode, ← hOp, headerOp_append_operands]
    exact congrArg (header :: ·) (dwordWords_dwordOfWords lo hi)
  · replace hOp : headerOp header = opReadReg := hOp
    rw [ops_eq_nil hOp (by decide) (by decide) hLen, encode, ← hOp, headerOp_append_readReg]
  · replace hOp : headerOp header = opReset := hOp
    rw [ops_eq_nil hOp (by decide) (by decide) hLen, encode, ← hOp, headerOp_append_operands]

/-- The payload decoded from an ADD_FRAME packet has PLEN bytes. -/
theorem decodeFrame_payloadLen (hOps : ops.length = 4 + payloadWords (headerPlen header)) :
    (decodeFrame header ops).payloadLen = headerPlen header :=
  unpackPayload_length _ _ (by rw [List.length_drop]; omega)

/-- The encoding of a decoded frame has the packet's length, and its first five words: all but the payload's. -/
theorem encode_decodeFrame (hOp : headerOp header = opAddFrame)
    (hOps : ops.length = 4 + payloadWords (headerPlen header)) :
    (header :: ops).length = (encode (.addFrame (decodeFrame header ops))).length ∧
      (header :: ops).take 5 = (encode (.addFrame (decodeFrame header ops))).take 5 := by
  have hPay := decodeFrame_payloadLen hOps
  constructor
  · simp only [encode, List.length_cons, List.length_append, dwordWords_length, packPayload_length, hPay, hOps]
  · rw [encode, encodeFrameHeader_decodeFrame hOp hPay]
    match ops, hOps with
    | w1 :: w2 :: w3 :: w4 :: _, _ => simp [decodeFrame, dwordWords_dwordOfWords]
    | [], h | [_], h | [_, _], h | [_, _, _], h => exact absurd h (by simp; omega)

/-- Byte `k` of a decoded payload is byte `k mod 4` of word `5 + k/4` of its packet (R75). -/
theorem decodeFrame_payload_getElem? (hOps : ops.length = 4 + payloadWords (headerPlen header)) {k : Nat}
    (hk : k < headerPlen header) :
    ∃ word, (header :: ops)[5 + k / 4]? = some word ∧
      (decodeFrame header ops).payload[k]? = some (word.extractLsb' (8 * (k % 4)) 8) := by
  have hIn : 4 + k / 4 < ops.length := by rw [hOps, payloadWords]; omega
  have hWord : ops[4 + k / 4]? = some ops[4 + k / 4] := List.getElem?_eq_getElem hIn
  refine ⟨ops[4 + k / 4], ?_, ?_⟩
  · rw [show 5 + k / 4 = 4 + k / 4 + 1 by omega, List.getElem?_cons_succ, hWord]
  · rw [decodeFrame, unpackPayload_getElem? _ hk, List.getElem?_drop, hWord]; rfl

end Sys2Proof

open Sys2Proof Sys2Proof.Machine

/-- Settles O14. An encoding is a header, which asks for the packet's length, and the words after it, from which every
operand is read back. -/
theorem decodeOfEncode : Obligations.DecodeOfEncode := by
  intro i rest hEnc
  obtain ⟨header, ops, hEq, hOp, hLen⟩ := packetForm i
  refine decode_eq_ok.mpr ⟨header, ops, by rw [hEq]; rfl, ?_, decodePacket_encode hEnc hEq hOp⟩
  rw [hLen hEnc, hEq, List.length_cons]

/-- Settles O15. A packet of any command but ADD_FRAME is put together again whole; one of ADD_FRAME is put together but
for its payload words, of which the bytes are read one by one. -/
theorem decodedPacketIsTheEncoding : Obligations.DecodedPacketIsTheEncoding := by
  intro ws rest i h
  obtain ⟨header, ops, rfl, hLen, hPkt⟩ := decode_eq_ok.mp h
  by_cases hFrame : headerOp header = opAddFrame
  · cases (decodePacket_of_addFrame hFrame ops).symm.trans hPkt
    have hOps : ops.length = 4 + payloadWords (headerPlen header) := by
      rw [packetLength_of_addFrame hFrame] at hLen; omega
    have hPay : (decodeFrame header ops).payload.length = headerPlen header := decodeFrame_payloadLen hOps
    obtain ⟨hSize, hWords⟩ := encode_decodeFrame hFrame hOps
    refine ⟨hPay.trans_le (headerPlen_le header), fun hNot => absurd rfl (hNot _), header :: ops, rfl, hSize, hWords,
      ?_⟩
    rintro f ⟨⟩
    exact ⟨hPay.trans (headerPlen_eq header), fun k hk => decodeFrame_payload_getElem? hOps (hPay ▸ hk)⟩
  · have hNot : ∀ f, i ≠ .addFrame f := by
      rintro f rfl
      exact hFrame (decodePacket_eq_ok hPkt).1
    have hEq := encode_of_decodePacket hPkt hLen hNot
    have hEnc : i.Encodable := by
      cases i with
      | addFrame f => exact absurd rfl (hNot f)
      | _ => trivial
    exact ⟨hEnc, fun _ => by rw [hEq]; rfl, header :: ops, rfl, by rw [hEq], by rw [hEq],
      fun f hf => absurd hf (hNot f)⟩

end

section
/-! A step over the words on the host port (spec/30_encoding.md R70 to R72, R84): the packet that stands first decides
whether a command runs or the block answers ILLEGAL to a reserved OP. -/

namespace Sys2Proof

variable {header : Word}

theorem headerOp_eq_iff {op : BitVec 4} : headerOp header = op ↔ header.toNat / 2 ^ 28 = op.toNat := by
  rw [← headerOp_toNat, BitVec.toNat_inj]

/-- The length of a packet from the header's bits (R72). -/
theorem packetLength_eq (header : Word) :
    packetLength header = if header.toNat / 2 ^ 28 = 1 then 5 + (header.toNat / 2 ^ 20 % 64 + 3) / 4
      else if header.toNat / 2 ^ 28 = 2 then 3 else 1 := by
  simp only [packetLength, headerOp_eq_iff, payloadWords, headerPlen_eq]
  rfl

/-- A packet of an OP that is not reserved is a command (R83). -/
theorem exists_decodePacket (h : ¬ReservedOp (headerOp header)) (ops : List Word) :
    ∃ i, decodePacket header ops = .ok i := by
  have hRow : ∀ op : BitVec 4, ¬ReservedOp op →
      op = opNop ∨ op = opAddFrame ∨ op = opCheckTimeout ∨ op = opReadReg ∨ op = opReset := by decide
  rcases hRow _ h with hOp | hOp | hOp | hOp | hOp
  · exact ⟨_, decodePacket_of_nop hOp ops⟩
  · exact ⟨_, decodePacket_of_addFrame hOp ops⟩
  · exact ⟨_, decodePacket_of_checkTimeout hOp ops⟩
  · exact ⟨_, decodePacket_of_readReg hOp ops⟩
  · exact ⟨_, decodePacket_of_reset hOp ops⟩

/-- A header of a reserved OP asks for one word (R72). -/
theorem packetLength_of_reserved (h : ReservedOp (headerOp header)) : packetLength header = 1 :=
  packetLength_eq_one (h.ne (by decide)) (h.ne (by decide))

/-- A header of a reserved OP is rejected with that OP, whatever stands after it (R84). -/
theorem decode_of_reserved (h : ReservedOp (headerOp header)) (ws : List Word) :
    decode (header :: ws) = .error (.reservedOp (headerOp header)) := by
  rw [decode, packetLength_of_reserved h, if_neg (by omega), decodePacket_of_reserved h]

/-- A whole packet of any other OP decodes to a command of that OP, and the words after it are left (R71, R72). -/
theorem decode_of_not_reserved (h : ¬ReservedOp (headerOp header)) {ws : List Word}
    (hWhole : packetLength header ≤ ws.length + 1) :
    ∃ i, headerOp header = i.op ∧ decode (header :: ws) = .ok (i, ws.drop (packetLength header - 1)) := by
  obtain ⟨i, hPkt⟩ := exists_decodePacket h (ws.take (packetLength header - 1))
  refine ⟨i, (decodePacket_eq_ok hPkt).1, decode_eq_ok.mpr ⟨header, _, by rw [List.take_append_drop], ?_, hPkt⟩⟩
  have hPos := packetLength_pos header
  rw [List.length_take]
  omega

end Sys2Proof

namespace Sys2Proof.Machine

variable {s : State}

theorem step_of_decode_ok {i : Instr} {rest : List Word} (hc : s.config.Valid) (h : decode s.hostIn = .ok (i, rest)) :
    step s = exec i { s with hostIn := rest } := by
  rw [step, if_pos hc, State.fetch, h]

theorem step_of_decode_reserved {op : BitVec 4} (hc : s.config.Valid) (h : decode s.hostIn = .error (.reservedOp op)) :
    step s = .next (State.raiseIllegal { s with hostIn := s.hostIn.drop 1 } op) := by
  rw [step, if_pos hc, State.fetch, h]

/-- The status word of an ILLEGAL response in numbers: DIAG 0xB, ILLEGAL and the OP (spec/60_exceptions.md R201). -/
theorem illegalStatus_word (op : BitVec 4) : (illegalStatus op).word = BitVec.ofNat 32 (0xB8 + op.toNat * 2 ^ 12) := by
  revert op; decide

/-- Only READ_REG has data words in its ILLEGAL response (R201). -/
theorem illegalData_of_ne {op : BitVec 4} (h : op ≠ opReadReg) : illegalData op = [] := if_neg h

/-- A register number outside the map reads no register (spec/10_state.md R32). -/
theorem readRegister_eq_none {reg : BitVec 8} (h : ¬RegisterNumber reg) (c : Config) (r : Registers) :
    readRegister c r reg = none := by
  unfold readRegister
  split
  case h_14 => rfl
  all_goals exact absurd h (by simp_all [RegisterNumber])

end Sys2Proof.Machine

open Sys2Proof Sys2Proof.Machine

/-- Settles O10. -/
theorem stepRunsTheDecodedCommand : Obligations.StepRunsTheDecodedCommand :=
  fun _ _ _ hc h => step_of_decode_ok hc h

/-- Settles O8: a reserved OP is not READ_REG's, so the answer has no data words. -/
theorem reservedOpIsIllegal : Obligations.ReservedOpIsIllegal := by
  intro s header rest hc hIn hLo hHi
  rw [← headerOp_toNat] at hLo hHi ⊢
  have hRes : ReservedOp (headerOp header) := ⟨hLo, hHi⟩
  have hDecode : decode s.hostIn = .error (.reservedOp (headerOp header)) := by
    rw [hIn, decode_of_reserved hRes]
  rw [step_of_decode_reserved hc hDecode, State.raiseIllegal_eq_answering, illegalStatus_word,
    illegalData_of_ne (hRes.ne (by decide)), hIn]
  rfl

/-- Settles O6. With a reserved bit set the register number is not looked at; without, the number is outside the map. -/
theorem readRegOutsideTheMapIsIllegal : Obligations.ReadRegOutsideTheMapIsIllegal := by
  intro r reg s h
  by_cases hr : r = 0
  · have hOut : ¬RegisterNumber reg := by
      have hRange := h.resolve_left (not_not.mpr hr)
      unfold RegisterNumber
      omega
    change execReadReg r reg s = _
    rw [execReadReg, if_neg (not_not.mpr hr), readRegister_eq_none hOut]
    rfl
  · exact if_pos hr

/-- Settles O13: each packet decoded and each status word put together. -/
theorem workedEncodings : Obligations.WorkedEncodings :=
  ⟨by decide, by decide, by decide, by decide, by decide, by decide, by decide, by decide, by decide, by decide,
    by decide⟩

end

section
/-! What a command puts on the ports: buffer transactions, and then one response (spec/20_memory.md R63,
spec/30_encoding.md R72, R80). ADD_FRAME is followed from Receive outwards to its response, whose DIAG code is ILLEGAL
for a frame out of range only (R85). -/

namespace Sys2Proof.Machine

/-- From `s` to `t` the transactions `txs` were issued, no response was given and no word was taken from the host. -/
structure Transacts (s t : State) (txs : List PortEvent) : Prop where
  hostIn : t.hostIn = s.hostIn
  log : t.portLog = s.portLog ++ txs
  transactions : ∀ e ∈ txs, e.isTransaction = true

variable {f : Frame} {s t : State} {evs txs : List PortEvent} {res : ResultCode} {d : Diag} {b : Bool}

/-- Register writes are not seen on the ports. -/
theorem Transacts.withRegs (s : State) (r : Registers) : Transacts s { s with regs := r } [] :=
  ⟨rfl, (List.append_nil _).symm, List.forall_mem_nil _⟩

theorem Transacts.refl (s : State) : Transacts s s [] := .withRegs s s.regs

theorem Acquires.transactions {bytes : Memory} {rest : List BufAnswer} (h : Acquires s evs bytes rest) :
    ∀ e ∈ evs, e.isTransaction = true := by
  rcases h with ⟨_, -, -, rfl, -⟩ | ⟨_, _, -, -, -, rfl, -⟩ <;> simp [PortEvent.isTransaction]

/-- Progress and completion take nothing from the host (spec/41_validation_and_reassembly.md R141 to R143). -/
theorem takeFrame_hostIn (h : (res, d, t) = takeFrame f s) : t.hostIn = s.hostIn := by
  unfold takeFrame at h
  split at h <;> cases h <;> rfl

theorem receiveMultiFrame_transacts (h : receiveMultiFrame f s = some (res, d, t)) : ∃ txs, Transacts s t txs := by
  rcases receiveMultiFrame_eq_some.mp h with ⟨_, _, _, -, -, -, -, -, rfl⟩ |
    ⟨evs, _, w, _, rest, hAcq, -, -, -, rfl⟩ | ⟨evs, _, w, rest, hAcq, -, hTake⟩
  · exact ⟨_, rfl, rfl, by simp [PortEvent.isTransaction]⟩
  · refine ⟨evs ++ [.bufWrite s.regs.bufferWritePos (payloadSlice f) w.written, .bufRemove], rfl, ?_, ?_⟩
    · simp [wroteState]
    · simpa [PortEvent.isTransaction, or_imp, forall_and] using hAcq.transactions
  · refine ⟨evs ++ [.bufWrite s.regs.bufferWritePos (payloadSlice f) w.written],
      by rw [takeFrame_hostIn hTake]; rfl, ?_, ?_⟩
    · rw [(takeFrame_ports hTake).1, ← List.append_assoc]; rfl
    · simpa [PortEvent.isTransaction, or_imp, forall_and] using hAcq.transactions

theorem receive_transacts (h : receive f s = some (res, d, t)) : ∃ txs, Transacts s t txs := by
  rw [receive_eq] at h
  split at h
  · obtain ⟨_, _, -, -, -, rfl⟩ := receiveSingleFrame_eq_some.mp h
    exact ⟨_, rfl, rfl, by simp [PortEvent.isTransaction]⟩
  · obtain ⟨txs, hHost, hLog, hTxs⟩ := receiveMultiFrame_transacts h
    exact ⟨txs, hHost, hLog, hTxs⟩

/-- The restart's BufRemove stands before whatever runs after it (spec/42_add_frame.md R156). -/
theorem Transacts.of_restarted (h : Transacts (restartedState s f) t txs) : Transacts s t (.bufRemove :: txs) := by
  obtain ⟨hHost, hLog, hTxs⟩ := h
  refine ⟨hHost, ?_, List.forall_mem_cons.mpr ⟨rfl, hTxs⟩⟩
  rw [hLog, restartedState_portLog, List.append_assoc]; rfl

theorem Transacts.of_intakeState (h : Transacts (intakeState s f) t txs) : ∃ txs, Transacts s t txs := by
  unfold intakeState at h
  split at h
  · exact ⟨_, h.of_restarted⟩
  · exact ⟨_, h⟩

/-! The DIAG codes of a frame in range. -/

theorem not_inRange_iff {c : Config} :
    ¬f.InRange c ↔ 2 ^ c.bitlen ≤ f.transferId.toNat ∨ c.frameIndexMax < f.frameIndex.toNat ∨
      c.payloadMax < f.payload.length := by
  simp only [Frame.InRange, not_and_or, not_lt, not_le]

theorem Diag.code_ne_illegal (h : d ≠ .illegal) : d.code ≠ 0xB := by
  cases d with
  | illegal => exact absurd rfl h
  | _ => decide

/-- No check of Validate has the code ILLEGAL (R82, R125). -/
theorem FailsWith.ne_illegal {w : Word} (h : FailsWith s f w) : w ≠ 0xB := by
  cases h <;> decide

theorem validate_ne_illegal (h : validate s.config s.regs f = .invalid d) : d ≠ .illegal := by
  rintro rfl
  exact (validate_eq_invalid h).ne_illegal rfl

theorem receive_ne_illegal (h : receive f s = some (res, d, t)) : d ≠ .illegal := by
  obtain ⟨-, hRegs, -⟩ := receive_effect h
  rcases hRegs.diag_cases with rfl | rfl | rfl <;> decide

theorem getLsbD_addFrameStatus_illegal (res : ResultCode) (d : Diag) (b : Bool) :
    (addFrameStatus res d b).word.getLsbD 3 = false := by
  cases res <;> cases d <;> cases b <;> rfl

/-! The response. -/

/-- The command issued transactions and then answered with one status word of ADD_FRAME, not with ILLEGAL. -/
def AnswersFrame (s t : State) : Prop :=
  ∃ s1 txs res d b, Transacts s s1 txs ∧ d ≠ .illegal ∧ t = s1.answering [(addFrameStatus res d b).word]

theorem intake_answersFrame (h : intake f s = some t) : AnswersFrame s t := by
  rcases intake_eq_some.mp h with ⟨-, -, -, ht⟩ | ⟨-, hRun⟩
  · exact ⟨_, _, .notComplete, .restartDrop, true, (Transacts.withRegs (restartedState s f) _).of_restarted,
      by decide, ht⟩
  · rcases validateAndReceive_eq_some.mp hRun with ⟨d, hInv, ht⟩ | ⟨-, res, d, s1, hRec, ht⟩
    · obtain ⟨txs, hTxs⟩ := (Transacts.refl (intakeState s f)).of_intakeState
      exact ⟨_, txs, _, d, _, hTxs, validate_ne_illegal hInv, ht⟩
    · obtain ⟨_, hRecTxs⟩ := receive_transacts hRec
      obtain ⟨txs, hTxs⟩ := hRecTxs.of_intakeState
      exact ⟨s1, txs, res, d, _, hTxs, receive_ne_illegal hRec, ht⟩

/-- ADD_FRAME answers ILLEGAL to a frame out of range, and nothing else is ILLEGAL (R85). -/
theorem execAddFrame_answers (h : execAddFrame f s = .next t) :
    (¬f.InRange s.config ∧ t = s.answering [0x10B8]) ∨ AnswersFrame s t := by
  rcases execAddFrame_eq_next.mp h with hIllegal | ⟨-, -, ht⟩ | ⟨-, -, -, ht⟩ | ⟨-, hIn⟩
  · exact .inl hIllegal
  · exact .inr ⟨s, [], .notComplete, .tsZero, false, .refl s, by decide, ht⟩
  · exact .inr ⟨s, [], .notComplete, .tsStale, false, .refl s, by decide, ht⟩
  · exact .inr (intake_answersFrame hIn)

/-- The number of words in a response, by its OP (R80). -/
def responseLength (op : BitVec 4) : Nat := if op = opReadReg then 3 else 1

theorem responseLength_eq (header : Word) :
    responseLength (headerOp header) = if header.toNat / 2 ^ 28 = 3 then 3 else 1 := by
  simp only [responseLength, headerOp_eq_iff]
  rfl

theorem illegalResponse_length (op : BitVec 4) :
    ((illegalStatus op).word :: illegalData op).length = responseLength op := by
  unfold illegalData responseLength
  split <;> rfl

/-- Everything a command puts on the ports: transactions, and then one response of the length its OP gives. -/
theorem exec_transacts_answers {i : Instr} (h : exec i s = .next t) :
    ∃ s1 txs ws, Transacts s s1 txs ∧ t = s1.answering ws ∧ ws.length = responseLength i.op := by
  cases i with
  | nop r =>
    change execNop r s = _ at h
    unfold execNop at h
    split at h <;> cases h <;> exact ⟨s, [], _, .refl s, rfl, rfl⟩
  | addFrame f =>
    rcases execAddFrame_answers h with ⟨-, rfl⟩ | ⟨s1, txs, _, _, _, hTxs, -, rfl⟩
    · exact ⟨s, [], _, .refl s, rfl, rfl⟩
    · exact ⟨s1, txs, _, hTxs, rfl, rfl⟩
  | checkTimeout r ts =>
    change execCheckTimeout r ts s = _ at h
    unfold execCheckTimeout at h
    split at h <;> cases h <;> exact ⟨s, [], _, .refl s, rfl, rfl⟩
  | readReg r reg =>
    change execReadReg r reg s = _ at h
    unfold execReadReg at h
    split at h
    · cases h; exact ⟨s, [], _, .refl s, rfl, rfl⟩
    · split at h <;> cases h <;> exact ⟨s, [], _, .refl s, rfl, rfl⟩
  | reset r =>
    change execReset r s = _ at h
    unfold execReset at h
    split at h <;> cases h
    · exact ⟨s, [], _, .refl s, rfl, rfl⟩
    · exact ⟨_, [], _, .withRegs s (resetRegisters s.config), rfl, rfl⟩

end Sys2Proof.Machine

open Sys2Proof Sys2Proof.Machine

/-- Settles O7. The response of a frame in range is the one its command answered with, and that is not ILLEGAL. -/
theorem outOfRangeFrameIsIllegal : Obligations.OutOfRangeFrameIsIllegal := by
  intro f s
  split
  · next hOut => exact execAddFrame_eq_next.mpr (.inl ⟨not_inRange_iff.mpr hOut, rfl⟩)
  · next hIn =>
    intro t txs w hEx hEmit
    rcases execAddFrame_answers hEx with ⟨hNot, -⟩ | ⟨s1, _, res, d, b, -, hd, rfl⟩
    · exact absurd (not_inRange_iff.mp hNot) hIn
    · cases (answering_getLast? _ _).symm.trans hEmit.getLast?
      exact ⟨getLsbD_addFrameStatus_illegal res d b, by
        rw [diagField_addFrameStatus]; exact Diag.code_ne_illegal hd⟩

/-- Settles O16. The length the statement reads from the header is the decoder's; the packet is then a command's, or one
word of a reserved OP. -/
theorem stepTakesOnePacket : Obligations.StepTakesOnePacket := by
  intro s t header ws len hc hIn hLen hWhole hStep
  rw [← packetLength_eq] at hLen
  subst hLen
  rw [← responseLength_eq, List.drop_cons (packetLength_pos header)]
  by_cases hRes : ReservedOp (headerOp header)
  · rw [step_of_decode_reserved hc (by rw [hIn, decode_of_reserved hRes])] at hStep
    cases hStep
    refine ⟨?_, [], _, by rw [List.append_nil]; rfl, List.forall_mem_nil _, illegalResponse_length _⟩
    rw [State.raiseIllegal_hostIn, hIn, packetLength_of_reserved hRes]; rfl
  · obtain ⟨i, hOp, hDecode⟩ := decode_of_not_reserved hRes hWhole
    rw [step_of_decode_ok hc (hIn ▸ hDecode)] at hStep
    obtain ⟨s1, txs, response, hTxs, rfl, hSize⟩ := exec_transacts_answers hStep
    refine ⟨hTxs.hostIn, txs, response, ?_, hTxs.transactions, hOp ▸ hSize⟩
    rw [State.answering_portLog, hTxs.log]

end

section
/-! CHECK_TIMEOUT and the timeout it reports (spec/40_tid_and_timing.md R104 to R107). -/

namespace Sys2Proof.Machine

variable {c : Config} {r r' : Registers} {ts later : BitVec 64} {s : State}

/-- CHECK_TIMEOUT without reserved bits answers whether the receiver is timed out (R106). -/
theorem exec_checkTimeout_zero (ts : BitVec 64) (s : State) :
    exec (.checkTimeout 0 ts) s =
      .next (s.answering [if TimedOut s.config s.regs ts then 0x00002004 else 0x00002000]) := by
  change Host.Outcome.next (s.respond { op := opCheckTimeout, timedOut := isTimedOut s.config s.regs ts } []) = _
  rw [State.respond_eq_answering]
  by_cases h : TimedOut s.config s.regs ts
  · rw [if_pos h, isTimedOut_iff.mpr h]; rfl
  · rw [if_neg h, Bool.eq_false_iff.mpr (mt isTimedOut_iff.mp h)]; rfl

/-- Two answers to one state are the same words. -/
theorem answering_inj {ws ws' : List Word} : s.answering ws = s.answering ws' ↔ ws = ws' := by
  refine ⟨fun h => ?_, congrArg _⟩
  have hLast := congrArg (fun t => t.portLog.getLast?) h
  simpa only [answering_getLast?, Option.some.injEq, PortEvent.response.injEq] using hLast

theorem exec_checkTimeout_reports_iff :
    exec (.checkTimeout 0 ts) s = .next (s.answering [0x00002004]) ↔ TimedOut s.config s.regs ts := by
  rw [exec_checkTimeout_zero, Host.Outcome.next.injEq, answering_inj]
  split
  · next h => exact iff_of_true rfl h
  · next h => exact iff_of_false (by decide) h

/-- The elapsed time grows with the timestamp, the window does not (R105, R107). -/
theorem TimedOut.mono (h : TimedOut c r ts) (hLe : ts.toNat ≤ later.toNat) : TimedOut c r later := by
  obtain ⟨hAfter, hElapsed⟩ := h
  exact ⟨hAfter.trans_le hLe, hElapsed.trans_le (Nat.sub_le_sub_right hLe _)⟩

/-- The timeout reads the start and the interval only (R105). -/
theorem TimedOut.of_regs_eq (h : TimedOut c r ts) (hThis : r'.thisTransferMonotonicTs = r.thisTransferMonotonicTs)
    (hInt : r'.transferInterval = r.transferInterval) : TimedOut c r' ts := by
  unfold TimedOut
  rw [hThis, hInt]
  exact h

end Sys2Proof.Machine

open Sys2Proof Sys2Proof.Machine

/-- Settles O4. The packet is the encoding of the command. -/
theorem checkTimeoutAnswersTheTimeout : Obligations.CheckTimeoutAnswersTheTimeout := by
  refine ⟨fun r ts rest => decodeOfEncode (.checkTimeout r ts) rest trivial, fun r ts s => ?_⟩
  by_cases hr : r = 0
  · subst hr
    rw [if_neg (not_not.mpr rfl)]
    exact exec_checkTimeout_zero ts s
  · rw [if_pos hr]
    exact if_pos hr

/-- Settles O33. A later timestamp is timed out with the same registers, and a command that leaves the two registers the
timeout reads cannot change the configuration either. -/
theorem timeoutStaysForLaterTimestamps : Obligations.TimeoutStaysForLaterTimestamps := by
  intro s ts later hLe hReport
  have hLater : TimedOut s.config s.regs later := (exec_checkTimeout_reports_iff.mp hReport).mono hLe
  refine ⟨exec_checkTimeout_reports_iff.mpr hLater, fun i t hEx hThis hInt => exec_checkTimeout_reports_iff.mpr ?_⟩
  rw [exec_config hEx]
  exact hLater.of_regs_eq hThis hInt

end

section
/-! The transfer-ID classifier by the forward distance (spec/40_tid_and_timing.md R100 to R102). -/

namespace Sys2Proof.Machine

variable {c : Config} {cur inc : BitVec 8}

theorem tidDistance_nonneg (c : Config) (cur inc : BitVec 8) : 0 ≤ tidDistance c cur inc :=
  Int.emod_nonneg _ (by positivity)

/-- The circle of transfer IDs is twice HALF (spec/00_scope.md R9). -/
theorem two_mul_half (hc : c.Valid) : 2 * (2 : Int) ^ (c.bitlen - 1) = (2 : Int) ^ c.bitlen := by
  obtain ⟨⟨hBits, -⟩, -⟩ := hc
  exact mul_pow_sub_one (by omega) 2

theorem tidDistance_lt (hc : c.Valid) (cur inc : BitVec 8) :
    tidDistance c cur inc < 2 * (2 : Int) ^ (c.bitlen - 1) := by
  rw [two_mul_half hc]
  exact Int.emod_lt_of_pos _ (by positivity)

/-- Two IDs of the circle are at distance 0 only where they are equal. -/
theorem tidDistance_eq_zero_iff (hCur : cur.toNat < 2 ^ c.bitlen) (hInc : inc.toNat < 2 ^ c.bitlen) :
    tidDistance c cur inc = 0 ↔ inc = cur := by
  rw [tidDistance, ← Int.emod_eq_emod_iff_emod_sub_eq_zero,
    Int.emod_eq_of_lt (by positivity) (by exact_mod_cast hInc),
    Int.emod_eq_of_lt (by positivity) (by exact_mod_cast hCur), Nat.cast_inj, BitVec.toNat_inj]

/-- From one ID forward to another and on to the first again is once around the circle. -/
theorem tidDistance_add_swap (hc : c.Valid) (h : tidDistance c cur inc ≠ 0) :
    tidDistance c cur inc + tidDistance c inc cur = 2 * (2 : Int) ^ (c.bitlen - 1) := by
  have hNotDvd : ¬(2 : Int) ^ c.bitlen ∣ (inc.toNat : Int) - cur.toNat := mt Int.emod_eq_zero_of_dvd h
  have hSwap : tidDistance c inc cur = (2 : Int) ^ c.bitlen - tidDistance c cur inc := by
    rw [tidDistance, ← neg_sub, Int.neg_emod, if_neg hNotDvd, Int.natCast_natAbs, abs_of_nonneg (by positivity),
      tidDistance]
  rw [hSwap, two_mul_half hc]
  ring

/-- REPEAT is what is neither SAME nor FUTURE: the distances from HALF on (R101). -/
theorem tidRel_eq_repeated : tidRel c cur inc = .repeated ↔ (2 : Int) ^ (c.bitlen - 1) ≤ tidDistance c cur inc := by
  have hHalf : 0 < (2 : Int) ^ (c.bitlen - 1) := by positivity
  cases hRel : tidRel c cur inc with
  | same =>
    have hZero : tidDistance c cur inc = 0 := tidRel_eq_same.mp hRel
    exact iff_of_false (by decide) (by omega)
  | future =>
    obtain ⟨-, hLt⟩ := tidRel_eq_future.mp hRel
    exact iff_of_false (by decide) hLt.not_ge
  | repeated =>
    have hSame : ¬SameTid c cur inc := by rw [← tidRel_eq_same, hRel]; decide
    have hFuture : ¬FutureTid c cur inc := by rw [← tidRel_eq_future, hRel]; decide
    have hNonneg := tidDistance_nonneg c cur inc
    exact iff_of_true rfl (not_lt.mp fun hLt => hFuture ⟨by omega, hLt⟩)

end Sys2Proof.Machine

open Sys2Proof Sys2Proof.Machine

/-- Settles O32. The two distances between distinct IDs add up to twice HALF, so exactly one of them is below HALF, or
both are HALF. -/
theorem tidRelationIsCircular : Obligations.TidRelationIsCircular := by
  intro c cur inc hc hCur hInc
  have hZero := tidDistance_eq_zero_iff hCur hInc
  have hNonneg := tidDistance_nonneg c cur inc
  have hLt := tidDistance_lt hc cur inc
  refine ⟨tidRel_eq_same, hZero, tidRel_eq_future, tidRel_eq_repeated, fun hNe hNotHalf => ?_, fun hHalf => ?_⟩
  · have hPos : tidDistance c cur inc ≠ 0 := mt hZero.mp hNe
    have hSum := tidDistance_add_swap hc hPos
    rcases lt_or_gt_of_ne hNotHalf with hBelow | hAbove
    · exact .inl ⟨tidRel_eq_future.mpr ⟨by omega, hBelow⟩, tidRel_eq_repeated.mpr (by omega)⟩
    · exact .inr ⟨tidRel_eq_repeated.mpr hAbove.le, tidRel_eq_future.mpr ⟨by omega, by omega⟩⟩
  · have hPos : 0 < (2 : Int) ^ (c.bitlen - 1) := by positivity
    have hSum := tidDistance_add_swap hc (show tidDistance c cur inc ≠ 0 by omega)
    exact ⟨tidRel_eq_repeated.mpr hHalf.ge, tidRel_eq_repeated.mpr (by omega)⟩

end

section
/-! The interval's moving average under a constant sample (spec/40_tid_and_timing.md R110, R112): it never crosses the
sample, and comes nearer to it until it is a fixed point, which stands at most 7 below the sample. -/

namespace Sys2Proof.Machine

variable {a x : Nat}

/-- The average between a sample below it and itself (R112). -/
theorem smoothedInterval_of_ge (h : x ≤ a) : x ≤ smoothedInterval a x ∧ smoothedInterval a x ≤ a :=
  smoothedInterval_bounds ⟨h, le_rfl⟩ ⟨le_rfl, h⟩

/-- The average between itself and a sample above it (R112). -/
theorem smoothedInterval_of_le (h : a ≤ x) : a ≤ smoothedInterval a x ∧ smoothedInterval a x ≤ x :=
  smoothedInterval_bounds ⟨le_rfl, h⟩ ⟨h, le_rfl⟩

/-- The truncation stalls the average from 7 below the sample up to the sample, and nowhere else. -/
theorem smoothedInterval_eq_self_iff : smoothedInterval a x = a ↔ a ≤ x ∧ x ≤ a + 7 := by
  unfold smoothedInterval; omega

/-- Upwards the average gains an eighth of the difference (R110). -/
theorem smoothedInterval_eq_add (h : a ≤ x) : smoothedInterval a x = a + (x - a) / 8 := by
  unfold smoothedInterval; omega

/-- An update that is not stalled comes nearer to the sample, from either side. -/
theorem dist_smoothedInterval_lt (h : smoothedInterval a x ≠ a) :
    Nat.dist (smoothedInterval a x) x < Nat.dist a x := by
  rcases le_total x a with hAbove | hBelow
  · obtain ⟨hLo, hHi⟩ := smoothedInterval_of_ge hAbove
    rw [Nat.dist_eq_sub_of_le_right hLo, Nat.dist_eq_sub_of_le_right hAbove]
    omega
  · obtain ⟨hLo, hHi⟩ := smoothedInterval_of_le hBelow
    rw [Nat.dist_eq_sub_of_le hHi, Nat.dist_eq_sub_of_le hBelow]
    omega

/-- A function whose every step but a fixed point's lowers a measure reaches a fixed point and stays there. -/
theorem iterate_settles {α : Type} {f : α → α} (μ : α → Nat) (hf : ∀ v, f v ≠ v → μ (f v) < μ v) (v : α) :
    ∃ n, f (f^[n] v) = f^[n] v ∧ ∀ k, n ≤ k → f^[k] v = f^[n] v := by
  induction hm : μ v using Nat.strong_induction_on generalizing v with
  | _ m ih =>
    by_cases hFix : f v = v
    · exact ⟨0, hFix, fun k _ => Function.iterate_fixed hFix k⟩
    · obtain ⟨n, hEnd, hStay⟩ := ih _ (hm ▸ hf v hFix) (f v) rfl
      refine ⟨n + 1, hEnd, fun k hk => ?_⟩
      obtain ⟨j, rfl⟩ : ∃ j, k = j + 1 := ⟨k - 1, by omega⟩
      exact hStay j (Nat.le_of_succ_le_succ hk)

/-- One update of the interval under the constant sample `x`. -/
abbrev intervalUpdate (x : Nat) : Nat → Nat := fun v => smoothedInterval v x

theorem intervalUpdate_settles (x a : Nat) :
    ∃ n, intervalUpdate x ((intervalUpdate x)^[n] a) = (intervalUpdate x)^[n] a ∧
      ∀ k, n ≤ k → (intervalUpdate x)^[k] a = (intervalUpdate x)^[n] a :=
  iterate_settles (Nat.dist · x) (fun _ => dist_smoothedInterval_lt) a

/-- From the sample or above, no number of updates goes below it. -/
theorem le_iterate_intervalUpdate (h : x ≤ a) (n : Nat) : x ≤ (intervalUpdate x)^[n] a :=
  Set.MapsTo.iterate (s := Set.Ici x) (fun _ hv => (smoothedInterval_of_ge hv).1) n h

/-- From the sample or below, no number of updates goes above it. -/
theorem iterate_intervalUpdate_le (h : a ≤ x) (n : Nat) : (intervalUpdate x)^[n] a ≤ x :=
  Set.MapsTo.iterate (s := Set.Iic x) (fun _ hv => (smoothedInterval_of_le hv).2) n h

end Sys2Proof.Machine

open Sys2Proof Sys2Proof.Machine

/-- Settles O35. The updates settle at a fixed point, which is at most 7 below the sample, and on the side of the sample
where they began. -/
theorem intervalConverges : Obligations.IntervalConverges := by
  intro a x
  obtain ⟨n, hFix, hStay⟩ := intervalUpdate_settles x a
  obtain ⟨hLe, hNear⟩ := smoothedInterval_eq_self_iff.mp hFix
  refine ⟨fun h => ?_, fun h => ?_, fun h => ⟨smoothedInterval_eq_add h.le, (smoothedInterval_of_le h.le).2⟩,
    fun h hStall => smoothedInterval_eq_self_iff.mpr ⟨h.le, hStall⟩, fun h => ⟨n, fun k hk => ?_⟩,
    fun h => ⟨n, _, hNear, iterate_intervalUpdate_le h.le n, hStay⟩⟩
  · obtain ⟨hLo, hHi⟩ := smoothedInterval_of_ge h.le
    have hMoves : smoothedInterval a x ≠ a := fun hEq => h.not_ge (smoothedInterval_eq_self_iff.mp hEq).1
    exact ⟨hLo, by omega⟩
  · subst h
    exact smoothedInterval_eq_self_iff.mpr ⟨le_rfl, by omega⟩
  · exact (hStay k hk).trans (hLe.antisymm (le_iterate_intervalUpdate h n))

end

section
/-! An accepted frame, path by path of Receive (spec/41_validation_and_reassembly.md R136 to R143): ADD_FRAME ends in what
Receive leaves and answers its result, so each whole next state is one path of Receive with its registers written out. -/

namespace Sys2Proof.Machine

variable {f : Frame} {s t : State} {res : ResultCode} {d : Diag} {word : Word}
  {evs txs log : List PortEvent} {bytes : Memory} {w a b : BufAnswer} {rest : List BufAnswer}

/-! From Receive to the whole command. -/

/-- The status word of an ADD_FRAME that reaches Receive: its result and DIAG code, and the bit of its restart
(spec/30_encoding.md R80). -/
theorem addFrameStatus_word_restartedBit (res : ResultCode) (d : Diag) (s : State) (f : Frame) :
    (addFrameStatus res d (decide (NeedRestart s f))).word =
      (0x1000 : Word) ||| res.code.setWidth 32 ||| (d.code.setWidth 32 <<< 4) ||| restartedBit s f := by
  simp only [addFrameStatus_word, restartedBit, decide_eq_true_eq]
  rfl

/-- An accepted frame leaves what Receive leaves in the intake state, and the answer goes behind the last transactions
(spec/42_add_frame.md R158). -/
theorem exec_addFrame_of_receive (hAcc : Accepted s f) (hRec : receive f (intakeState s f) = some (res, d, t))
    (hLog : t.portLog = log ++ txs)
    (hWord : word = (0x1000 : Word) ||| res.code.setWidth 32 ||| (d.code.setWidth 32 <<< 4)) :
    exec (.addFrame f) s =
      .next { t with portLog := log ++ (txs ++ [.response [word ||| restartedBit s f]]) } := by
  obtain ⟨⟨hAdm, hRestart⟩, hVal⟩ := hAcc
  have hRun := validateAndReceive_eq_some (b := decide (NeedRestart s f)).mpr (.inr ⟨hVal, res, d, t, hRec, rfl⟩)
  rw [addFrameStatus_word_restartedBit, ← hWord] at hRun
  rw [← List.append_assoc, ← hLog]
  exact execAddFrame_eq_next.mpr (.inr (.inr (.inr ⟨hAdm, intake_eq_some.mpr (.inr ⟨hRestart, hRun⟩)⟩)))

/-- A frame of a multi-frame transfer takes the multi-frame path, after the timestamp capture (R136, R137). -/
theorem receive_of_multiFrame (hMulti : ¬(f.isFirstFrame = true ∧ f.isLastFrame = true)) (s : State) :
    receive f s = receiveMultiFrame f { s with regs := capturedRegisters f s.regs } := by
  rw [receive_eq, if_neg hMulti]

/-! The registers that each path leaves. -/

theorem captureCrc_eq (f : Frame) (r : Registers) : captureCrc f r = { r with thisTransferCrc := capturedCrc f r } := by
  simp only [captureCrc, capturedCrc, extractCrc_eq]

/-- The timestamp capture leaves the CRC, so the two captures are independent (R131, R137). -/
theorem captureCrc_capturedRegisters (f : Frame) (r : Registers) :
    captureCrc f (capturedRegisters f r) = { capturedRegisters f r with thisTransferCrc := capturedCrc f r } :=
  captureCrc_eq f (capturedRegisters f r)

theorem capturedRegisters_of_first (hFirst : f.isFirstFrame = true) (r : Registers) :
    capturedRegisters f r =
      { r with thisTransferMonotonicTs := f.monotonicTimestamp, firstFrameUtcTs := f.utcTimestamp } := by
  simp only [capturedRegisters, hFirst, if_true]

theorem capturedRegisters_of_not_first (hFirst : f.isFirstFrame = false) (r : Registers) :
    capturedRegisters f r = r := by
  simp only [capturedRegisters, hFirst, Bool.false_eq_true, if_false]

theorem capturedCrc_of_not_first (hFirst : f.isFirstFrame = false) (r : Registers) :
    capturedCrc f r = r.thisTransferCrc := by
  simp only [capturedCrc, hFirst, Bool.false_eq_true, if_false]

theorem takenRegisters_eq (f : Frame) (r : Registers) :
    takenRegisters f r =
      { capturedRegisters f r with
        nextFrameIndex := r.nextFrameIndex + 1
        bufferWritePos := r.bufferWritePos + BitVec.ofNat 16 (writtenBytes f).length
        thisTransferCrc := capturedCrc f r } := by
  have hCapture : captureCrc f (captureTimestamps f r) = _ := captureCrc_capturedRegisters f r
  rw [takenRegisters, hCapture]
  rfl

/-- A completion by a frame that is not first captures nothing: the transfer's own start is tracked (R142). -/
theorem completedRegisters_of_not_first (hFirst : f.isFirstFrame = false) (c : Config) (r : Registers) :
    prepareForNextTransfer c (updateTransferTimings c (takenRegisters f r)) =
      { r with
        tid := followingTid c r.tid
        nextFrameIndex := 0
        bufferWritePos := 0
        prevTransferMonotonicTs := r.thisTransferMonotonicTs
        transferInterval := completedInterval c r r.thisTransferMonotonicTs } := by
  rw [takenRegisters_eq, capturedRegisters_of_not_first hFirst, capturedCrc_of_not_first hFirst]
  rfl

/-! The paths of Receive. -/

theorem receive_of_singleFrame (hFirst : f.isFirstFrame = true) (hLast : f.isLastFrame = true)
    (hAns : s.bufAnswers = a :: rest) :
    receive f s = some (.singleFrame, .ok, { s with
      regs := completeSingleFrame s.config
        { s.regs with thisTransferMonotonicTs := f.monotonicTimestamp, firstFrameUtcTs := f.utcTimestamp }
      bufAnswers := rest
      buffer := none
      portLog := s.portLog ++ [.bufRemove] }) := by
  rw [receive_eq, if_pos ⟨hFirst, hLast⟩, capturedRegisters_of_first hFirst]
  exact receiveSingleFrame_eq_some.mpr ⟨a, rest, hAns, rfl, rfl, rfl⟩

theorem receive_of_noBuffer (hMulti : ¬(f.isFirstFrame = true ∧ f.isLastFrame = true))
    (hAns : s.bufAnswers = a :: b :: rest) (ha : a.presence = .absent) (hb : b.presence = .absent) :
    receive f s = some (.notComplete, .noBuffer, { s with
      regs := abortReset s.config (capturedRegisters f s.regs)
      bufAnswers := rest
      buffer := none
      portLog := s.portLog ++ [.bufAccess .absent, .bufCreate .absent] }) := by
  rw [receive_of_multiFrame hMulti]
  exact receiveMultiFrame_eq_some.mpr (.inl ⟨a, b, rest, hAns, ha, hb, rfl, rfl, rfl⟩)

/-- The CRC was captured before the BufWrite that failed (R132, R140). -/
theorem receive_of_writeFailed (hMulti : ¬(f.isFirstFrame = true ∧ f.isLastFrame = true))
    (hAcq : Acquires s evs bytes (w :: a :: rest)) (hFail : w.written.toInt ≠ ((writtenBytes f).length : Int)) :
    receive f s = some (.notComplete, .writeFailed, { s with
      regs := abortReset s.config { capturedRegisters f s.regs with thisTransferCrc := capturedCrc f s.regs }
      bufAnswers := rest
      buffer := none
      portLog := s.portLog ++ evs ++
        [.bufWrite s.regs.bufferWritePos (writtenBytes f) w.written, .bufRemove] }) := by
  rw [receive_of_multiFrame hMulti, ← captureCrc_capturedRegisters]
  refine receiveMultiFrame_eq_some.mpr (.inr (.inl ⟨evs, bytes, w, a, rest, hAcq,
    Bool.eq_false_iff.mpr (mt writeSucceeds_iff.mp hFail), rfl, rfl, ?_⟩))
  simp only [wroteState, List.append_assoc]
  rfl

/-! The path of a frame written into the acquired buffer. -/

/-- The state once the frame's bytes stand in the acquired buffer and the frame is counted, before a completion
(R131, R141). -/
def takenState (f : Frame) (s : State) (evs : List PortEvent) (bytes : Memory) (w : BufAnswer)
    (rest : List BufAnswer) : State :=
  { s with
    regs := takenRegisters f s.regs
    bufAnswers := rest
    buffer := some (bytes.writeBytes s.regs.bufferWritePos.toNat (writtenBytes f))
    portLog := s.portLog ++ evs ++ [.bufWrite s.regs.bufferWritePos (writtenBytes f) w.written] }

/-- A successful BufWrite ends Receive in the taken state, with the completion's registers on a last frame (R141 to
R143). -/
theorem receive_of_written (hMulti : ¬(f.isFirstFrame = true ∧ f.isLastFrame = true))
    (hAcq : Acquires s evs bytes (w :: rest)) (hOk : w.written.toInt = ((writtenBytes f).length : Int)) :
    receive f s = some (
      if f.isLastFrame then
        (.complete, .ok,
          { takenState f s evs bytes w rest with
            regs := prepareForNextTransfer s.config (updateTransferTimings s.config (takenRegisters f s.regs)) })
      else (.notComplete, .ok, takenState f s evs bytes w rest)) := by
  rw [receive_of_multiFrame hMulti]
  refine receiveMultiFrame_eq_some.mpr (.inr (.inr ⟨evs, bytes, w, rest, hAcq, writeSucceeds_iff.mpr hOk, ?_⟩))
  simp only [wroteState, writtenBuffer_of_success (payloadSlice_eq f ▸ hOk)]
  rfl

/-! The bytes that such a frame leaves. -/

/-- The bytes of frame `f` stand in the buffer of `t` at the write position of `s`, and every other offset reads as in
`bytes` (spec/20_memory.md R58). -/
def HoldsWritten (f : Frame) (s : State) (bytes : Memory) (t : State) : Prop :=
  t.buffer ≠ none ∧
  ∀ a : Nat, t.bufferByte a =
    if s.regs.bufferWritePos.toNat ≤ a ∧ a < s.regs.bufferWritePos.toNat + (writtenBytes f).length then
      (writtenBytes f)[a - s.regs.bufferWritePos.toNat]?
    else bytes.read a

theorem holdsWritten_of_buffer
    (h : t.buffer = some (bytes.writeBytes s.regs.bufferWritePos.toNat (writtenBytes f))) :
    HoldsWritten f s bytes t := by
  refine ⟨h ▸ Option.some_ne_none _, fun a => ?_⟩
  rw [bufferByte_eq_read, h]
  exact Memory.read_writeBytes _ _ _ _

end Sys2Proof.Machine

open Sys2Proof Sys2Proof.Machine

/-- Settles O21: the single-frame path, with the captured start as the one tracked. -/
theorem singleFrameTransfer : Obligations.SingleFrameTransfer := by
  rintro f s s1 a rest rfl hAcc hFirst hLast hAns
  exact exec_addFrame_of_receive hAcc (receive_of_singleFrame hFirst hLast hAns) rfl rfl

/-- Settles O22: the multi-frame path that acquires no buffer. -/
theorem noBufferAbort : Obligations.NoBufferAbort := by
  rintro f s s1 a b rest rfl hAcc hMulti hAns ha hb
  exact exec_addFrame_of_receive hAcc (receive_of_noBuffer hMulti hAns ha hb) rfl rfl

/-- Settles O23: the multi-frame path whose BufWrite fails. -/
theorem writeFailureAbort : Obligations.WriteFailureAbort := by
  rintro f s s1 evs bytes w a rest rfl hAcc hMulti hAcq hFail
  exact exec_addFrame_of_receive hAcc (receive_of_writeFailed hMulti hAcq hFail) rfl rfl

/-- Settles O24: the multi-frame path whose BufWrite succeeds, on a frame that is not last. -/
theorem frameTakenIntoTransfer : Obligations.FrameTakenIntoTransfer := by
  rintro f s s1 evs bytes w rest rfl hAcc hLast hAcq hOk
  have hRec := receive_of_written (fun h => Bool.false_ne_true (hLast.symm.trans h.2)) hAcq hOk
  rw [hLast, if_neg Bool.false_ne_true, takenState, takenRegisters_eq] at hRec
  exact ⟨_, exec_addFrame_of_receive hAcc hRec rfl rfl, rfl, holdsWritten_of_buffer rfl⟩

/-- Settles O25: the multi-frame path whose BufWrite succeeds, on a last frame that captures nothing. -/
theorem multiFrameTransferCompletes : Obligations.MultiFrameTransferCompletes := by
  rintro f s s1 evs bytes w rest rfl hAcc hFirst hLast hAcq hOk
  have hRec := receive_of_written (fun h => Bool.false_ne_true (hFirst.symm.trans h.1)) hAcq hOk
  rw [if_pos hLast, completedRegisters_of_not_first hFirst] at hRec
  exact ⟨_, exec_addFrame_of_receive hAcc hRec rfl rfl, rfl, holdsWritten_of_buffer rfl⟩

end

section
/-! The restart decision by itself: its truth table (spec/42_add_frame.md R155) and the two timeouts it reads (R153). -/

namespace Sys2Proof.Machine

variable {k : Conditions}

/-- What a restart needs (R154); a first frame of a later transfer brings one on its own interface, or on another once
that one is timed out. -/
theorem Conditions.needRestart_iff :
    k.needRestart = true ↔ k.notInitialized = true ∨ k.receiverTimedOut = true ∨
      (k.firstFrame = true ∧ k.tidRelation = .future ∧ (k.sameIface = true ∨ k.ifaceTimedOut = true)) := by
  simp only [needRestart, Bool.or_eq_true, Bool.and_eq_true, beq_iff_eq]
  tauto

theorem Conditions.action_of_restart (h : k.needRestart = true) :
    k.action = if k.firstFrame then .restartContinue else .restartDrop := if_pos h

theorem Conditions.action_of_no_restart (h : ¬k.needRestart = true) : k.action = .proceed := if_neg h

/-- The receiver's window is `HALF + 1` intervals, at least the two of the interface's (R104, R153). -/
theorem TimedOut.ifaceTimedOut {c : Config} {r : Registers} {ts : BitVec 64} (h : TimedOut c r ts) :
    IfaceTimedOut r ts := by
  obtain ⟨-, hElapsed⟩ := h
  have hHalf : 1 ≤ 2 ^ (c.bitlen - 1) := Nat.one_le_two_pow
  exact lt_of_le_of_lt (Nat.mul_le_mul_left _ (by omega)) hElapsed

end Sys2Proof.Machine

open Sys2Proof Sys2Proof.Machine

/-- Settles O31: a row with a restart names one of its reasons and whether the frame is first, a row without one denies
them all. -/
theorem restartActionTable : Obligations.RestartActionTable := by
  intro k
  have hRestart := fun h => Conditions.action_of_restart (Conditions.needRestart_iff (k := k).mpr h)
  have hProceed := fun h => Conditions.action_of_no_restart (mt (Conditions.needRestart_iff (k := k)).mp h)
  refine ⟨fun hInit hFirst => ?_, fun hInit hFirst => ?_, fun _ hTimed hFirst => ?_, fun _ hTimed hFirst => ?_,
    fun hInit hTimed hFirst => hProceed (by simp [hInit, hTimed, hFirst]),
    fun hInit hTimed _ hTid => hProceed (by simp [hInit, hTimed, hTid]),
    fun _ _ hFirst hTid hSame => ?_, fun _ _ hFirst hTid _ hIface => ?_,
    fun hInit hTimed _ _ hSame hIface => hProceed (by simp [hInit, hTimed, hSame, hIface])⟩
  · rw [hRestart (.inl hInit), hFirst]; rfl
  · rw [hRestart (.inl hInit), hFirst]; rfl
  · rw [hRestart (.inr (.inl hTimed)), hFirst]; rfl
  · rw [hRestart (.inr (.inl hTimed)), hFirst]; rfl
  · rw [hRestart (.inr (.inr ⟨hFirst, hTid, .inl hSame⟩)), hFirst]; rfl
  · rw [hRestart (.inr (.inr ⟨hFirst, hTid, .inr hIface⟩)), hFirst]; rfl

/-- Settles O34: the two model functions are the two timeouts of the spec, and one window contains the other. -/
theorem receiverTimeoutImpliesInterfaceTimeout : Obligations.ReceiverTimeoutImpliesInterfaceTimeout :=
  fun _ _ _ _ h => isIfaceTimedOut_iff.mpr (isTimedOut_iff.mp h).ifaceTimedOut

end

section
/-! Every outcome of ADD_FRAME, said once as an equivalence (spec/42_add_frame.md R160): a rejection as the registers
stand, restart-and-drop, a first frame that Validate rejects after its restart, or Receive. -/

namespace Sys2Proof.Machine

variable {f : Frame} {s s1 t : State} {w d : Word} {txs evs rm : List PortEvent} {bit : Word}

/-- The frame is rejected as the registers stand, and the status word that says so (spec/30_encoding.md R85,
spec/42_add_frame.md R151, R158). -/
inductive RejectedAsIs (s : State) (f : Frame) : Word → Prop where
  | illegal : ¬f.InRange s.config → RejectedAsIs s f 0x10B8
  | tsZero : f.InRange s.config → f.monotonicTimestamp = 0 → RejectedAsIs s f 0x1010
  | tsStale : f.InRange s.config → f.monotonicTimestamp ≠ 0 → ¬Admitted s f → RejectedAsIs s f 0x1020
  | invalid (d : Word) : Admitted s f → ¬NeedRestart s f → FailsWith s f d →
      RejectedAsIs s f ((0x1000 : Word) ||| (d <<< 4))

/-- The state after restart-and-drop, before its answer (R157). -/
def droppedState (s : State) (f : Frame) : State :=
  { restartedState s f with regs := { (restartedState s f).regs with tid := followingTid s.config f.transferId } }

/-- The status word that ADD_FRAME answers, and the state before the answer. -/
inductive FrameOutcome (s : State) (f : Frame) : Word → State → Prop where
  | rejected (w : Word) : RejectedAsIs s f w → FrameOutcome s f w s
  | dropped : Admitted s f → NeedRestart s f → f.isFirstFrame = false → s.bufAnswers ≠ [] →
      FrameOutcome s f 0x1130 (droppedState s f)
  | restarted (d : Word) : Admitted s f → NeedRestart s f → f.isFirstFrame = true → s.bufAnswers ≠ [] →
      FailsWith (restartedState s f) f d →
      FrameOutcome s f ((0x1000 : Word) ||| (d <<< 4) ||| 0x100) (restartedState s f)
  | received (res : ResultCode) (d : Diag) (s1 : State) : Accepted s f →
      receive f (intakeState s f) = some (res, d, s1) →
      FrameOutcome s f (addFrameStatus res d (decide (NeedRestart s f))).word s1

theorem intakeState_of_restart (h : NeedRestart s f) : intakeState s f = restartedState s f := if_pos h

theorem intakeState_of_not_restart (h : ¬NeedRestart s f) : intakeState s f = s := if_neg h

theorem restartedBit_of_restart (h : NeedRestart s f) : restartedBit s f = 0x100 := if_pos h

theorem or_restartedBit_of_not_restart (h : ¬NeedRestart s f) (w : Word) : w ||| restartedBit s f = w := by
  rw [restartedBit, if_neg h]
  exact BitVec.or_zero

/-- The codes that Validate names (spec/41_validation_and_reassembly.md R125). -/
theorem FailsWith.code_cases (h : FailsWith s f d) : d = 0x4 ∨ d = 0x5 ∨ d = 0x6 ∨ d = 0x7 ∨ d = 0x8 := by
  cases h <;> decide

/-- A frame that fails a check has that verdict. -/
theorem FailsWith.verdict (h : FailsWith s f d) :
    ∃ v : Diag, validate s.config s.regs f = .invalid v ∧ d = v.code.setWidth 32 := by
  cases hV : validate s.config s.regs f with
  | valid => exact absurd (validate_eq_valid.mp hV) h.not_validated
  | invalid v => exact ⟨v, rfl, h.unique (validate_eq_invalid hV)⟩

/-- A frame that reaches Validate and fails a check is answered with the check's code, the rest as it reached Validate
(R158). -/
theorem exec_addFrame_of_failsWith (hReach : ReachesValidate s f) (hFail : FailsWith (intakeState s f) f d) :
    exec (.addFrame f) s =
      .next ((intakeState s f).answering [(0x1000 : Word) ||| (d <<< 4) ||| restartedBit s f]) := by
  obtain ⟨hAdm, hRestart⟩ := hReach
  obtain ⟨v, hV, rfl⟩ := hFail.verdict
  have hRun := validateAndReceive_eq_some (b := decide (NeedRestart s f)).mpr (.inl ⟨v, hV, rfl⟩)
  rw [addFrameStatus_word_restartedBit] at hRun
  exact execAddFrame_eq_next.mpr (.inr (.inr (.inr ⟨hAdm, intake_eq_some.mpr (.inr ⟨hRestart, hRun⟩)⟩)))

/-- A rejection as the registers stand only answers (R164). -/
theorem RejectedAsIs.exec_eq (h : RejectedAsIs s f w) : exec (.addFrame f) s = .next (s.answering [w]) := by
  cases h with
  | illegal hRange => exact execAddFrame_eq_next.mpr (.inl ⟨hRange, rfl⟩)
  | tsZero hRange hZero => exact execAddFrame_eq_next.mpr (.inr (.inl ⟨hRange, hZero, rfl⟩))
  | tsStale hRange hNonzero hStale =>
    exact execAddFrame_eq_next.mpr (.inr (.inr (.inl ⟨hRange, hNonzero, hStale, rfl⟩)))
  | invalid d hAdm hN hFail =>
    have hEx := exec_addFrame_of_failsWith ⟨hAdm, fun h => absurd h hN⟩ (by rwa [intakeState_of_not_restart hN])
    rwa [intakeState_of_not_restart hN, or_restartedBit_of_not_restart hN] at hEx

theorem FrameOutcome.exec_eq (h : FrameOutcome s f w s1) : exec (.addFrame f) s = .next (s1.answering [w]) := by
  cases h with
  | rejected _ hRej => exact hRej.exec_eq
  | dropped hAdm hN hFirst hAns =>
    exact execAddFrame_eq_next.mpr (.inr (.inr (.inr ⟨hAdm, intake_eq_some.mpr (.inl ⟨hN, hFirst, hAns, rfl⟩)⟩)))
  | restarted d hAdm hN hFirst hAns hFail =>
    have hEx := exec_addFrame_of_failsWith ⟨hAdm, fun _ => ⟨hFirst, hAns⟩⟩ (by rwa [intakeState_of_restart hN])
    rwa [intakeState_of_restart hN, restartedBit_of_restart hN] at hEx
  | received res d _ hAcc hRec =>
    obtain ⟨⟨hAdm, hRestart⟩, hVal⟩ := hAcc
    exact execAddFrame_eq_next.mpr (.inr (.inr (.inr ⟨hAdm, intake_eq_some.mpr (.inr ⟨hRestart,
      validateAndReceive_eq_some.mpr (.inr ⟨hVal, res, d, s1, hRec, rfl⟩)⟩)⟩)))

/-- A frame that Validate rejects is rejected as the registers stand, or after its restart. -/
theorem FrameOutcome.of_failsWith (hReach : ReachesValidate s f) (hFail : FailsWith (intakeState s f) f d) :
    FrameOutcome s f ((0x1000 : Word) ||| (d <<< 4) ||| restartedBit s f) (intakeState s f) := by
  obtain ⟨hAdm, hRestart⟩ := hReach
  by_cases hN : NeedRestart s f
  · obtain ⟨hFirst, hAns⟩ := hRestart hN
    rw [intakeState_of_restart hN] at hFail ⊢
    rw [restartedBit_of_restart hN]
    exact .restarted d hAdm hN hFirst hAns hFail
  · rw [intakeState_of_not_restart hN] at hFail ⊢
    rw [or_restartedBit_of_not_restart hN]
    exact .rejected _ (.invalid d hAdm hN hFail)

/-- Everything ADD_FRAME can do with a next state, each outcome under its condition and with its answer. -/
theorem exec_addFrame_eq_next :
    exec (.addFrame f) s = .next t ↔ ∃ w s1, FrameOutcome s f w s1 ∧ t = s1.answering [w] := by
  constructor
  · intro hEx
    rcases execAddFrame_eq_next.mp hEx with ⟨hRange, rfl⟩ | ⟨hRange, hZero, rfl⟩ | ⟨hRange, hNonzero, hStale, rfl⟩ |
      ⟨hAdm, hIn⟩
    · exact ⟨_, _, .rejected _ (.illegal hRange), rfl⟩
    · exact ⟨_, _, .rejected _ (.tsZero hRange hZero), rfl⟩
    · exact ⟨_, _, .rejected _ (.tsStale hRange hNonzero hStale), rfl⟩
    · rcases intake_eq_some.mp hIn with ⟨hN, hFirst, hAns, rfl⟩ | ⟨hRestart, hRun⟩
      · exact ⟨_, _, .dropped hAdm hN hFirst hAns, rfl⟩
      · rcases validateAndReceive_eq_some.mp hRun with ⟨d, hInv, rfl⟩ | ⟨hVal, res, d, s1, hRec, rfl⟩
        · refine ⟨_, _, .of_failsWith ⟨hAdm, hRestart⟩ (validate_eq_invalid hInv), ?_⟩
          rw [addFrameStatus_word_restartedBit]
          rfl
        · exact ⟨_, _, .received res d s1 ⟨⟨hAdm, hRestart⟩, hVal⟩ hRec, rfl⟩
  · rintro ⟨w, s1, hOut, rfl⟩
    exact hOut.exec_eq

/-- The status word that ADD_FRAME emitted is its outcome's. -/
theorem Emitted.frameOutcome (hEm : Emitted s t txs w []) (hEx : exec (.addFrame f) s = .next t) :
    ∃ s1, FrameOutcome s f w s1 ∧ t = s1.answering [w] := by
  obtain ⟨w', s1, hOut, rfl⟩ := exec_addFrame_eq_next.mp hEx
  obtain rfl : w' = w := by simpa using (answering_getLast? _ _).symm.trans hEm.getLast?
  exact ⟨s1, hOut, rfl⟩

/-- Of an admitted frame only Validate's rejection is left, with no restart before it. -/
theorem RejectedAsIs.of_admitted (h : RejectedAsIs s f w) (hAdm : Admitted s f) :
    ¬NeedRestart s f ∧ ∃ d, FailsWith s f d ∧ w = (0x1000 : Word) ||| (d <<< 4) := by
  cases h with
  | illegal hRange => obtain ⟨hRange', -⟩ := hAdm; exact absurd hRange' hRange
  | tsZero _ hZero => obtain ⟨-, hNonzero, -⟩ := hAdm; exact absurd hZero hNonzero
  | tsStale _ _ hStale => exact absurd hAdm hStale
  | invalid d _ hN hFail => exact ⟨hN, d, hFail, rfl⟩

/-- An admitted frame is not answered TS_ZERO or TS_STALE (R151). -/
theorem FrameOutcome.diagField_of_admitted (h : FrameOutcome s f w s1) (hAdm : Admitted s f) :
    diagField w ≠ 0x1 ∧ diagField w ≠ 0x2 := by
  cases h with
  | rejected _ hRej =>
    obtain ⟨-, d, hFail, rfl⟩ := hRej.of_admitted hAdm
    rcases hFail.code_cases with rfl | rfl | rfl | rfl | rfl <;> decide
  | dropped => decide
  | restarted d _ _ _ _ hFail => rcases hFail.code_cases with rfl | rfl | rfl | rfl | rfl <;> decide
  | received res d _ _ hRec =>
    obtain ⟨-, hRegs, -⟩ := receive_effect hRec
    rw [diagField_addFrameStatus]
    rcases hRegs.diag_cases with rfl | rfl | rfl <;> decide

/-! The transactions of each outcome (R161). -/

theorem Acquires.acquireRow {bytes : Memory} {rest : List BufAnswer} (h : Acquires s evs bytes rest) :
    AcquireRow evs := by
  rcases h with ⟨_, -, -, rfl, -⟩ | ⟨_, _, -, -, -, rfl, -⟩
  · exact .accessed
  · exact .created

theorem RestartRow.transactions {need : Prop} (h : RestartRow need rm bit) : ∀ e ∈ rm, e.isTransaction = true := by
  cases h <;> simp [PortEvent.isTransaction]

theorem AcquireRow.transactions (h : AcquireRow evs) : ∀ e ∈ evs, e.isTransaction = true := by
  cases h <;> simp [PortEvent.isTransaction]

/-- A row of the table holds no response. -/
theorem PathRow.transactions (h : PathRow s f txs w) : ∀ e ∈ txs, e.isTransaction = true := by
  cases h with
  | illegal => exact List.forall_mem_nil _
  | tsZero => exact List.forall_mem_nil _
  | tsStale => exact List.forall_mem_nil _
  | restartDrop => simp [PortEvent.isTransaction]
  | invalid _ _ _ _ hRm => exact hRm.transactions
  | singleFrame _ _ _ hRm => simpa [PortEvent.isTransaction, or_imp, forall_and] using hRm.transactions
  | noBuffer _ _ _ hRm => simpa [PortEvent.isTransaction, or_imp, forall_and] using hRm.transactions
  | writeFailed _ _ _ _ _ hRm hAcq =>
    simpa [PortEvent.isTransaction, or_imp, forall_and] using ⟨hRm.transactions, hAcq.transactions⟩
  | taken _ _ _ _ _ hRm hAcq =>
    simpa [PortEvent.isTransaction, or_imp, forall_and] using ⟨hRm.transactions, hAcq.transactions⟩

/-- The BufRemove of a restart goes with the RESTARTED bit, and both with the need for a restart (R156). -/
theorem exists_restartRow (s : State) (f : Frame) :
    ∃ rm, RestartRow (NeedRestart s f) rm (restartedBit s f) ∧ (intakeState s f).portLog = s.portLog ++ rm := by
  by_cases hN : NeedRestart s f
  · rw [intakeState_of_restart hN, restartedBit, if_pos hN]
    exact ⟨_, .restarted hN, rfl⟩
  · rw [intakeState_of_not_restart hN, restartedBit, if_neg hN]
    exact ⟨_, .notRestarted hN, (List.append_nil _).symm⟩

/-- A frame taken in is answered COMPLETE where it is the last one (spec/41_validation_and_reassembly.md R142). -/
theorem takeFrame_word {res : ResultCode} {d : Diag} (h : (res, d, t) = takeFrame f s) :
    (0x1000 : Word) ||| res.code.setWidth 32 ||| (d.code.setWidth 32 <<< 4) =
      if f.isLastFrame then 0x1001 else 0x1000 := by
  unfold takeFrame at h
  split at h
  · next hLast => cases h; rw [if_pos hLast]; rfl
  · next hLast => cases h; rw [if_neg hLast]; rfl

/-- Receive issues the transactions of its path, behind those of the restart. -/
theorem receive_pathRow {res : ResultCode} {d : Diag} (hAcc : Accepted s f)
    (hRm : RestartRow (NeedRestart s f) rm bit) (hRec : receive f (intakeState s f) = some (res, d, t)) :
    ∃ txs, t.portLog = (intakeState s f).portLog ++ txs ∧
      PathRow s f (rm ++ txs) ((0x1000 : Word) ||| res.code.setWidth 32 ||| (d.code.setWidth 32 <<< 4) ||| bit) := by
  rw [receive_eq] at hRec
  split at hRec
  · next hSingle =>
    obtain ⟨_, _, -, rfl, rfl, rfl⟩ := receiveSingleFrame_eq_some.mp hRec
    exact ⟨_, rfl, .singleFrame rm bit hAcc hRm hSingle.1 hSingle.2⟩
  · next hMulti =>
    rcases receiveMultiFrame_eq_some.mp hRec with ⟨_, _, _, -, -, -, rfl, rfl, rfl⟩ |
      ⟨acq, _, a, _, _, hAcq, hFail, rfl, rfl, rfl⟩ | ⟨acq, _, a, _, hAcq, hOk, hTake⟩
    · exact ⟨_, rfl, .noBuffer rm bit hAcc hRm hMulti⟩
    · have hRow := PathRow.writeFailed rm acq bit a.written hAcc hRm hAcq.acquireRow hMulti
        (mt writeSucceeds_iff.mpr (Bool.eq_false_iff.mp hFail))
      rw [List.append_assoc] at hRow
      exact ⟨_, by simp [wroteState, captureCrc, capturedRegisters, payloadSlice_eq], hRow⟩
    · have hRow := PathRow.taken rm acq bit a.written hAcc hRm hAcq.acquireRow hMulti (writeSucceeds_iff.mp hOk)
      rw [List.append_assoc, ← takeFrame_word hTake] at hRow
      exact ⟨_, by rw [(takeFrame_ports hTake).1, ← List.append_assoc]; rfl, hRow⟩

theorem FrameOutcome.pathRow (h : FrameOutcome s f w s1) :
    ∃ txs, s1.portLog = s.portLog ++ txs ∧ PathRow s f txs w := by
  cases h with
  | rejected _ hRej =>
    refine ⟨[], (List.append_nil _).symm, ?_⟩
    cases hRej with
    | illegal hRange => exact .illegal hRange
    | tsZero hRange hZero => exact .tsZero hRange hZero
    | tsStale hRange hNonzero hStale => exact .tsStale hRange hNonzero hStale
    | invalid d hAdm hN hFail =>
      have hRow := PathRow.invalid [] 0#32 d ⟨hAdm, fun h => absurd h hN⟩ (.notRestarted hN)
        (by rwa [intakeState_of_not_restart hN])
      rwa [BitVec.or_zero] at hRow
  | dropped hAdm hN hFirst => exact ⟨_, rfl, .restartDrop hAdm hN hFirst⟩
  | restarted d hAdm hN hFirst hAns hFail =>
    exact ⟨_, rfl, .invalid _ _ d ⟨hAdm, fun _ => ⟨hFirst, hAns⟩⟩ (.restarted hN)
      (by rwa [intakeState_of_restart hN])⟩
  | received res d _ hAcc hRec =>
    obtain ⟨rm, hRm, hLog⟩ := exists_restartRow s f
    obtain ⟨txs, hTxs, hRow⟩ := receive_pathRow hAcc hRm hRec
    rw [addFrameStatus_word_restartedBit]
    exact ⟨rm ++ txs, by rw [hTxs, hLog, List.append_assoc], hRow⟩

end Sys2Proof.Machine

open Sys2Proof Sys2Proof.Machine

/-- Settles O18. A frame with a timestamp that is not older than a start is admitted. -/
theorem timestampRejections : Obligations.TimestampRejections := by
  intro f s hRange
  refine ⟨fun hZero => (RejectedAsIs.tsZero hRange hZero).exec_eq, fun hNonzero hOld => ?_,
    fun hNonzero hPrev hThis t txs w hEx hEm => ?_⟩
  · refine (RejectedAsIs.tsStale hRange hNonzero fun ⟨_, _, hPrev, hThis⟩ => ?_).exec_eq
    exact hOld.elim hPrev.not_gt hThis.not_gt
  · obtain ⟨s1, hOut, -⟩ := hEm.frameOutcome hEx
    exact hOut.diagField_of_admitted ⟨hRange, hNonzero, hPrev, hThis⟩

/-- Settles O19: the outcome of a restart on a frame that is not a first frame. -/
theorem restartAndDrop : Obligations.RestartAndDrop := by
  intro f s a rest hAdm hN hFirst hAns
  rw [(FrameOutcome.dropped hAdm hN hFirst (by simp [hAns])).exec_eq]
  simp only [droppedState, restartedState, State.answering, hAns, List.append_assoc]
  rfl

/-- Settles O20, for a frame that was restarted and for one that was not. -/
theorem validationFailure : Obligations.ValidationFailure := fun _ _ _ => exec_addFrame_of_failsWith

/-- Settles O28: each outcome follows its row, and the rows hold buffer transactions only. -/
theorem addFrameTransactionTable : Obligations.AddFrameTransactionTable := by
  intro f s t hEx
  obtain ⟨w, s1, hOut, rfl⟩ := exec_addFrame_eq_next.mp hEx
  obtain ⟨txs, hLog, hRow⟩ := hOut.pathRow
  exact ⟨txs, w, ⟨by rw [State.answering_portLog, hLog], hRow.transactions⟩, hRow⟩

end

section
/-! A frame fed again (spec/42_add_frame.md R163, R164): what ADD_FRAME leaves behind an accepted frame, and the check
of Validate, or the restart, that its copy meets there; and a rejected frame, which meets the same rejection. -/

namespace Sys2Proof.Machine

variable {f : Frame} {s s1 t : State} {w w' d : Word} {txs evs : List PortEvent} {c : Config} {r r' : Registers}
  {cur inc : BitVec 8} {ts : BitVec 64} {res : ResultCode} {v : Diag}

/-! When no restart is due (R154). -/

theorem not_needRestart (hInit : s.regs.thisTransferMonotonicTs ≠ 0)
    (hTimed : ¬TimedOut s.config s.regs f.monotonicTimestamp)
    (hTid : f.isFirstFrame = true → ¬FutureTid s.config s.regs.tid f.transferId) : ¬NeedRestart s f := by
  rintro (hZero | hLate | ⟨-, hFirst, hFuture⟩ | ⟨-, hFirst, hFuture⟩)
  · exact hInit hZero
  · exact hTimed hLate
  · exact hTid hFirst hFuture
  · exact hTid hFirst hFuture

/-- A frame that is not a first frame reaches Validate only where no restart is due (R157). -/
theorem not_needRestart_of_not_first (hReach : ReachesValidate s f) (hFirst : f.isFirstFrame = false) :
    ¬NeedRestart s f :=
  fun hN => Bool.false_ne_true (hFirst.symm.trans (hReach.2 hN).1)

/-- No time has elapsed at the start itself (R105). -/
theorem not_timedOut_of_start (h : r.thisTransferMonotonicTs = ts) : ¬TimedOut c r ts :=
  fun hLate => hLate.1.ne (congrArg BitVec.toNat h)

theorem sameTid_self (c : Config) (a : BitVec 8) : SameTid c a a := by
  rw [SameTid, tidDistance, sub_self, Int.zero_emod]

theorem not_futureTid_of_sameTid (h : SameTid c cur inc) : ¬FutureTid c cur inc := fun hFuture => hFuture.1.ne' h

/-- The ID after `inc` is the ID after whichever current one it is the same as (spec/40_tid_and_timing.md R100). -/
theorem followingTid_eq_of_sameTid (h : SameTid c cur inc) : followingTid c cur = followingTid c inc := by
  have hMod : cur.toNat ≡ inc.toNat [MOD 2 ^ c.bitlen] :=
    Nat.modEq_iff_dvd.mpr (by exact_mod_cast Int.dvd_of_emod_eq_zero h)
  exact congrArg (BitVec.ofNat 8) (hMod.add_right 1)

/-- From the ID after `a` it is once around the circle, but one step, to `a` (R100). -/
theorem tidDistance_followingTid (hc : c.Valid) (a : BitVec 8) :
    tidDistance c (followingTid c a) a = 2 * (2 : Int) ^ (c.bitlen - 1) - 1 := by
  obtain ⟨⟨-, hBits⟩, -⟩ := id hc
  have hPos : 0 < (2 : Int) ^ c.bitlen := by positivity
  have hFit : (a.toNat + 1) % 2 ^ c.bitlen < 2 ^ 8 :=
    (Nat.mod_lt _ (Nat.two_pow_pos _)).trans_le (Nat.pow_le_pow_right (by omega) hBits)
  have hNat : (followingTid c a).toNat = (a.toNat + 1) % 2 ^ c.bitlen := Nat.mod_eq_of_lt hFit
  calc tidDistance c (followingTid c a) a
      = ((a.toNat : Int) - (a.toNat + 1)) % (2 : Int) ^ c.bitlen := by
        rw [tidDistance, hNat]; push_cast; exact Int.sub_emod_emod _ _ _
    _ = (-1 + (2 : Int) ^ c.bitlen) % (2 : Int) ^ c.bitlen := by
        rw [Int.add_emod_right]; congr 1; ring
    _ = 2 * (2 : Int) ^ (c.bitlen - 1) - 1 := by
        rw [Int.emod_eq_of_lt (by omega) (by omega), two_mul_half hc]; ring

/-- A transfer ID that has been passed is a repeat (R101). -/
theorem passed_tid (hc : c.Valid) (a : BitVec 8) :
    ¬SameTid c (followingTid c a) a ∧ ¬FutureTid c (followingTid c a) a := by
  have hDist := tidDistance_followingTid hc a
  have hPos : 0 < (2 : Int) ^ (c.bitlen - 1) := by positivity
  exact ⟨fun hSame => by rw [SameTid] at hSame; omega, fun hFuture => by obtain ⟨-, hLt⟩ := hFuture; omega⟩

theorem admitted_of_accepted (h : Accepted s f) : Admitted s f := h.1.1

/-- Once admitted, a frame stays so: a start that it writes is its own timestamp (R151). -/
theorem admitted_again (hAdm : Admitted s f) (hEx : exec (.addFrame f) s = .next t) : Admitted t f := by
  rcases execAddFrame_cases hEx with ⟨ws, rfl⟩ | ⟨-, hIn⟩
  · exact hAdm
  · obtain ⟨hc, -, w, hW, -⟩ := intake_effect hIn
    obtain ⟨hRange, hNonzero, hPrev, hThis⟩ := hAdm
    have hThis' : t.regs.thisTransferMonotonicTs.toNat ≤ f.monotonicTimestamp.toNat := by
      rcases hW.thisTs_cases with hEq | ⟨-, hEq⟩
      · rwa [hEq]
      · rw [hEq]
    refine ⟨by rwa [hc], hNonzero, ?_, hThis'⟩
    rcases hW.timings_cases with ⟨hEq, -⟩ | ⟨-, hEq⟩
    · rwa [hEq]
    · rwa [hEq]

/-! The fields of the status words (spec/30_encoding.md R80). -/

theorem FailsWith.word_fields (h : FailsWith s f d) :
    resultField ((0x1000 : Word) ||| (d <<< 4)) = 0 ∧ resultField ((0x1000 : Word) ||| (d <<< 4) ||| 0x100) = 0 ∧
    diagField ((0x1000 : Word) ||| (d <<< 4)) = d.setWidth 4 ∧
    diagField ((0x1000 : Word) ||| (d <<< 4) ||| 0x100) = d.setWidth 4 ∧ d.setWidth 4 ≠ 0 ∧
    restartedField ((0x1000 : Word) ||| (d <<< 4)) = false ∧
    restartedField ((0x1000 : Word) ||| (d <<< 4) ||| 0x100) = true := by
  rcases h.code_cases with rfl | rfl | rfl | rfl | rfl <;> decide

theorem RejectedAsIs.word_fields (h : RejectedAsIs s f w) :
    resultField w = 0 ∧ diagField w ≠ 0 ∧ restartedField w = false := by
  cases h with
  | illegal => decide
  | tsZero => decide
  | tsStale => decide
  | invalid d _ _ hFail =>
    obtain ⟨hRes, -, hDiag, -, hNonzero, hBit, -⟩ := hFail.word_fields
    exact ⟨hRes, hDiag ▸ hNonzero, hBit⟩

/-- DIAG OK, or a result other than NOT_COMPLETE, comes from Receive only. -/
theorem FrameOutcome.received_of_word (h : FrameOutcome s f w s1) (hw : diagField w = 0 ∨ resultField w ≠ 0) :
    ∃ res v, Accepted s f ∧ receive f (intakeState s f) = some (res, v, s1) ∧
      resultField w = res.code ∧ diagField w = v.code := by
  cases h with
  | rejected _ hRej =>
    obtain ⟨hRes, hDiag, -⟩ := hRej.word_fields
    exact (hw.elim hDiag (absurd hRes)).elim
  | dropped => exact absurd hw (by decide)
  | restarted d _ _ _ _ hFail =>
    obtain ⟨-, hRes, -, hDiag, hNonzero, -⟩ := hFail.word_fields
    exact (hw.elim (hDiag ▸ hNonzero) (absurd hRes)).elim
  | received res v _ hAcc hRec =>
    exact ⟨res, v, hAcc, hRec, resultField_addFrameStatus _ _ _, diagField_addFrameStatus _ _ _⟩

/-! The registers behind an accepted frame. -/

theorem ReceiveWrites.regs_of_taken (h : ReceiveWrites c f r res v r') (hRes : res.code = 0) (hDiag : v.code = 0) :
    r' = takenRegisters f r := by
  cases h with
  | taken => rfl
  | singleFrame => exact absurd hRes (by decide)
  | noBuffer => exact absurd hDiag (by decide)
  | writeFailed => exact absurd hDiag (by decide)
  | completed => exact absurd hRes (by decide)

/-- What both completions leave: the transfer is over and its frame's ID is passed (R121). -/
structure Completed (c : Config) (f : Frame) (r r' : Registers) : Prop where
  last : f.isLastFrame = true
  ifaceIndex : r'.ifaceIndex = r.ifaceIndex
  tid : r'.tid = followingTid c r.tid
  nextFrameIndex : r'.nextFrameIndex = 0
  bufferWritePos : r'.bufferWritePos = 0

theorem ReceiveWrites.completed_of_result (h : ReceiveWrites c f r res v r') (hRes : res.code ≠ 0) :
    Completed c f r r' := by
  cases h with
  | singleFrame _ hLast => exact ⟨hLast, rfl, rfl, rfl, rfl⟩
  | completed hLast => exact ⟨hLast, rfl, rfl, rfl, rfl⟩
  | noBuffer => exact absurd rfl hRes
  | writeFailed => exact absurd rfl hRes
  | taken => exact absurd rfl hRes

/-- Behind an accepted frame the receiver is initialized (spec/10_state.md R26). -/
theorem start_ne_zero_of_accepted (hAcc : Accepted s f)
    (hRec : receive f (intakeState s f) = some (res, v, s1)) : s1.regs.thisTransferMonotonicTs ≠ 0 := by
  obtain ⟨-, hW, -⟩ := receive_effect hRec
  rw [hW.thisTs_eq, intakeState_thisTs]
  cases hFirst : f.isFirstFrame with
  | true =>
    obtain ⟨-, hNonzero, -⟩ := admitted_of_accepted hAcc
    exact hNonzero
  | false => exact fun hZero => not_needRestart_of_not_first hAcc.1 hFirst (.inl hZero)

/-- A frame taken in leaves a receiver that is not timed out at its timestamp, as its start is the frame's or as
before. -/
theorem not_timedOut_of_taken (hReach : ReachesValidate s f)
    (hRegs : r = takenRegisters f (intakeState s f).regs) : ¬TimedOut s.config r f.monotonicTimestamp := by
  subst hRegs
  cases hFirst : f.isFirstFrame with
  | true => exact not_timedOut_of_start (by simp [hFirst])
  | false =>
    have hN := not_needRestart_of_not_first hReach hFirst
    rw [intakeState_of_not_restart hN]
    exact fun hLate => hN (.inr (.inl (hLate.of_regs_eq (by simp [hFirst]) rfl)))

/-- A state in which the transfer that frame `f` ended is complete (spec/70_reset_and_hazards.md R225). -/
structure EndedBy (f : Frame) (t : State) : Prop where
  admitted : Admitted t f
  last : f.isLastFrame = true
  initialized : t.regs.thisTransferMonotonicTs ≠ 0
  ifaceIndex : f.ifaceIndex = t.regs.ifaceIndex
  tid : t.regs.tid = followingTid t.config f.transferId
  nextFrameIndex : t.regs.nextFrameIndex = 0
  bufferWritePos : t.regs.bufferWritePos = 0

theorem endedBy_of_receive (hAcc : Accepted s f) (hRec : receive f (intakeState s f) = some (res, v, s1))
    (hRes : res.code ≠ 0) (hEx : exec (.addFrame f) s = .next (s1.answering [w])) :
    EndedBy f (s1.answering [w]) := by
  obtain ⟨hc, hW, -⟩ := receive_effect hRec
  have hEnd := hW.completed_of_result hRes
  obtain ⟨hIface, -, -, -, hTid⟩ := hAcc.2
  have hNext : s1.regs.tid = followingTid s1.config f.transferId := by
    rw [hEnd.tid, hc, followingTid_eq_of_sameTid hTid]
  have hAdm := admitted_again (admitted_of_accepted hAcc) hEx
  have hInit := start_ne_zero_of_accepted hAcc hRec
  exact ⟨hAdm, hEnd.last, hInit, hIface.trans hEnd.ifaceIndex.symm, hNext, hEnd.nextFrameIndex, hEnd.bufferWritePos⟩

/-! The copy of a frame that completed a transfer. -/

/-- The index of the copy is checked before its transfer ID (spec/41_validation_and_reassembly.md R125). -/
theorem EndedBy.failsWith (h : EndedBy f t) (hc : t.config.Valid) :
    FailsWith t f (if f.frameIndex = 0 then 0x8 else 0x7) := by
  have hCrc : ¬(f.isFirstFrame = true ∧ f.isLastFrame = false ∧ f.payloadLen < crcLen) := by simp [h.last]
  have hTerm : ¬(f.frameIndex.toNat = t.config.frameIndexMax ∧ f.isLastFrame = false) := by simp [h.last]
  split
  · next hZero =>
    exact .badTid h.ifaceIndex hCrc hTerm (hZero.trans h.nextFrameIndex.symm) (h.tid ▸ (passed_tid hc _).1)
  · next hNonzero => exact .badIndex h.ifaceIndex hCrc hTerm (h.nextFrameIndex ▸ hNonzero)

/-- The copy is rejected where the receiver is not timed out, its ID being no later one (R163). -/
theorem EndedBy.exec_copy (h : EndedBy f t) (hc : t.config.Valid)
    (hTimed : ¬TimedOut t.config t.regs f.monotonicTimestamp) :
    exec (.addFrame f) t = .next (t.answering [if f.frameIndex = 0 then 0x00001080 else 0x00001070]) := by
  have hN : ¬NeedRestart t f :=
    not_needRestart h.initialized hTimed fun _ => h.tid ▸ (passed_tid hc _).2
  rw [(RejectedAsIs.invalid _ h.admitted hN (h.failsWith hc)).exec_eq]
  split <;> rfl

/-- A restart on the copy, and the step past its ID, write what the completion left, but for the CRC (R157). -/
theorem EndedBy.dropped_regs (h : EndedBy f t) :
    { t.regs with
      ifaceIndex := f.ifaceIndex
      tid := followingTid t.config f.transferId
      nextFrameIndex := 0
      bufferWritePos := 0
      thisTransferCrc := 0 } = { t.regs with thisTransferCrc := 0 } := by
  rw [Registers.mk.injEq]
  exact ⟨h.ifaceIndex, h.tid.symm, h.nextFrameIndex.symm, h.bufferWritePos.symm, rfl, rfl, rfl, rfl, rfl⟩

/-- COMPLETE ends a transfer of several frames (spec/41_validation_and_reassembly.md R138, R142). -/
theorem not_first_of_complete (hRec : receive f s = some (res, v, t)) (hRes : res.code = 1)
    (hLast : f.isLastFrame = true) : f.isFirstFrame = false := by
  rw [receive_eq] at hRec
  split at hRec
  · obtain ⟨_, _, -, rfl, -, -⟩ := receiveSingleFrame_eq_some.mp hRec
    exact absurd hRes (by decide)
  · next hMulti => exact Bool.eq_false_iff.mpr fun hFirst => hMulti ⟨hFirst, hLast⟩

/-- SINGLE_FRAME is the result of a frame that is both first and last (R138). -/
theorem ReceiveWrites.first_of_single (h : ReceiveWrites c f r res v r') (hRes : res.code = 2) :
    f.isFirstFrame = true := by
  cases h with
  | singleFrame hFirst => exact hFirst
  | _ => exact absurd hRes (by decide)

/-! A rejected frame, fed again. -/

/-- The checks read the configuration and the registers only. -/
theorem FailsWith.congr (h : FailsWith s f d) (hc : t.config = s.config) (hr : t.regs = s.regs) :
    FailsWith t f d := by
  obtain ⟨v, hV, rfl⟩ := h.verdict
  exact validate_eq_invalid (by rwa [hc, hr])

theorem RejectedAsIs.answering (h : RejectedAsIs s f w) (ws : List Word) : RejectedAsIs (s.answering ws) f w := by
  cases h with
  | illegal hRange => exact .illegal hRange
  | tsZero hRange hZero => exact .tsZero hRange hZero
  | tsStale hRange hNonzero hStale => exact .tsStale hRange hNonzero hStale
  | invalid d hAdm hN hFail => exact .invalid d hAdm hN (hFail.congr rfl rfl)

/-- After its restart a frame's interface and transfer ID are the receiver's (R156). -/
theorem FailsWith.code_of_restarted (h : FailsWith (restartedState s f) f d) : d = 0x5 ∨ d = 0x6 ∨ d = 0x7 := by
  cases h with
  | badIface hIface => exact absurd rfl hIface
  | noCrc => decide
  | unterminated => decide
  | badIndex => decide
  | badTid _ _ _ _ hTid => exact absurd (sameTid_self _ _) hTid

/-- A restart that gave a next state was acknowledged (R156; spec/60_exceptions.md R202). -/
theorem bufAnswers_ne_nil_of_restart (hAdm : Admitted s f) (hN : NeedRestart s f)
    (hEx : exec (.addFrame f) s = .next t) : s.bufAnswers ≠ [] := by
  obtain ⟨w, s1, hOut, -⟩ := exec_addFrame_eq_next.mp hEx
  cases hOut with
  | rejected _ hRej => exact absurd hN (hRej.of_admitted hAdm).1
  | dropped _ _ _ hAns => exact hAns
  | restarted _ _ _ _ hAns => exact hAns
  | received _ _ _ hAcc => exact (hAcc.1.2 hN).2

/-- An outcome determines the next state, the status word and the transactions. -/
theorem FrameOutcome.emits (h : FrameOutcome s f w s1) (hLog : s1.portLog = s.portLog ++ evs)
    (hEx : exec (.addFrame f) s = .next t) (hEm : Emitted s t txs w' []) :
    t = s1.answering [w] ∧ w' = w ∧ txs = evs := by
  obtain rfl : s1.answering [w] = t := by simpa [h.exec_eq] using hEx
  have hWord : w = w' := by simpa using (answering_getLast? _ _).symm.trans hEm.getLast?
  exact ⟨rfl, hWord.symm, hEm.eq_of_answering hLog⟩

/-- The reasons for a restart that the restart itself does not remove: the start is unset, or too long ago (R154). -/
abbrev StaysDue (s : State) (f : Frame) : Prop :=
  s.regs.thisTransferMonotonicTs = 0 ∨ TimedOut s.config s.regs f.monotonicTimestamp

theorem StaysDue.needRestart (h : StaysDue s f) : NeedRestart s f := h.imp_right .inl

theorem staysDue_of_not_first (h : NeedRestart s f) (hFirst : f.isFirstFrame = false) : StaysDue s f := by
  rcases h with hZero | hLate | ⟨-, hF, -⟩ | ⟨-, hF, -⟩
  · exact .inl hZero
  · exact .inr hLate
  · exact absurd (hFirst.symm.trans hF) Bool.false_ne_true
  · exact absurd (hFirst.symm.trans hF) Bool.false_ne_true

/-- A frame dropped by a restart is dropped by the same restart again. -/
theorem FrameOutcome.copy_of_dropped {ws : List Word} (hAdm : Admitted ((droppedState s f).answering ws) f)
    (hDue : StaysDue s f) (hFirst : f.isFirstFrame = false)
    (hEx : exec (.addFrame f) ((droppedState s f).answering ws) = .next t) :
    FrameOutcome ((droppedState s f).answering ws) f 0x1130 (droppedState ((droppedState s f).answering ws) f) := by
  have hN : NeedRestart ((droppedState s f).answering ws) f := StaysDue.needRestart hDue
  exact .dropped hAdm hN hFirst (bufAnswers_ne_nil_of_restart hAdm hN hEx)

/-- A first frame rejected after its restart is rejected by the same check again, after another restart where that one
stays due. -/
theorem FrameOutcome.copy_of_restarted {ws : List Word} (hAdm : Admitted ((restartedState s f).answering ws) f)
    (hFirst : f.isFirstFrame = true) (hFail : FailsWith (restartedState s f) f d)
    (hEx : exec (.addFrame f) ((restartedState s f).answering ws) = .next t) :
    (StaysDue s f → FrameOutcome ((restartedState s f).answering ws) f ((0x1000 : Word) ||| (d <<< 4) ||| 0x100)
      (restartedState ((restartedState s f).answering ws) f)) ∧
    (¬StaysDue s f → FrameOutcome ((restartedState s f).answering ws) f ((0x1000 : Word) ||| (d <<< 4))
      ((restartedState s f).answering ws)) := by
  constructor
  · intro hDue
    have hN : NeedRestart ((restartedState s f).answering ws) f := StaysDue.needRestart hDue
    exact .restarted d hAdm hN hFirst (bufAnswers_ne_nil_of_restart hAdm hN hEx) (hFail.congr rfl rfl)
  · intro hDue
    have hN : ¬NeedRestart ((restartedState s f).answering ws) f :=
      not_needRestart (fun hZero => hDue (.inl hZero)) (fun hLate => hDue (.inr hLate))
        fun _ => not_futureTid_of_sameTid (sameTid_self _ _)
    exact .rejected _ (.invalid d hAdm hN (hFail.congr rfl rfl))

end Sys2Proof.Machine

open Sys2Proof Sys2Proof.Machine

/-- Settles O36: the interface is the first check of Validate, and none of the reasons for a restart holds. -/
theorem otherInterfaceIsRejected : Obligations.OtherInterfaceIsRejected := by
  intro f s hAdm hInit hIface hTimed hFailover
  refine (RejectedAsIs.invalid 0x4 hAdm ?_ (.badIface hIface)).exec_eq
  rintro (hZero | hLate | ⟨hSame, -⟩ | hDue)
  · exact hInit hZero
  · exact hTimed hLate
  · exact hIface hSame
  · exact hFailover hDue

/-- Settles O38: the frame moved `next_frame_index` past its own index, and left nothing that asks for a restart. -/
theorem duplicateInTransferIsRejected : Obligations.DuplicateInTransferIsRejected := by
  intro f s t txs w hEx hEm hDiag hRes
  obtain ⟨s1, hOut, rfl⟩ := hEm.frameOutcome hEx
  obtain ⟨res, v, hAcc, hRec, hRes', hDiag'⟩ := hOut.received_of_word (.inl hDiag)
  obtain ⟨hc, hW, -⟩ := receive_effect hRec
  have hRegs := hW.regs_of_taken (hRes'.symm.trans hRes) (hDiag'.symm.trans hDiag)
  obtain ⟨hIface, hCrc, hTerm, hIdx, hTid⟩ := hAcc.2
  rw [← hc] at hTerm hTid
  have hNext : f.frameIndex ≠ s1.regs.nextFrameIndex := by rw [hRegs, takenRegisters_nextFrameIndex, ← hIdx]; simp
  have hN : ¬NeedRestart s1 f := not_needRestart (start_ne_zero_of_accepted hAcc hRec)
    (by rw [hc, intakeState_config]; exact not_timedOut_of_taken hAcc.1 hRegs)
    fun _ => by rw [hRegs]; exact not_futureTid_of_sameTid hTid
  have hAdm := admitted_again (admitted_of_accepted hAcc) hEx
  exact (RejectedAsIs.invalid 0x7 hAdm hN
    (.badIndex (by rw [State.answering_regs, hRegs]; exact hIface) hCrc hTerm hNext)).exec_eq

/-- Settles O39: a single frame's start is its own timestamp, at which the receiver is not timed out. -/
theorem duplicateSingleFrameIsRejected : Obligations.DuplicateSingleFrameIsRejected := by
  intro f s t txs w hValid hEx hEm hRes
  have hValid' : t.config.Valid := by rwa [exec_config hEx]
  obtain ⟨s1, hOut, rfl⟩ := hEm.frameOutcome hEx
  obtain ⟨res, v, hAcc, hRec, hRes', -⟩ := hOut.received_of_word (.inr (by rw [hRes]; decide))
  obtain ⟨-, hW, -⟩ := receive_effect hRec
  have hFirst := hW.first_of_single (hRes'.symm.trans hRes)
  have hStart : s1.regs.thisTransferMonotonicTs = f.monotonicTimestamp := by rw [hW.thisTs_eq, if_pos hFirst]
  have hEnd := endedBy_of_receive hAcc hRec (by rw [← hRes', hRes]; decide) hEx
  exact hEnd.exec_copy hValid' (not_timedOut_of_start hStart)

/-- Settles O46: the interval that the completion left decides whether the copy meets Validate or a restart. -/
theorem duplicateLastFrameRestartsOrIsRejected : Obligations.DuplicateLastFrameRestartsOrIsRejected := by
  intro f s t txs w hValid hEx hEm hRes
  have hValid' : t.config.Valid := by rwa [exec_config hEx]
  obtain ⟨s1, hOut, rfl⟩ := hEm.frameOutcome hEx
  obtain ⟨res, v, hAcc, hRec, hRes', -⟩ := hOut.received_of_word (.inr (by rw [hRes]; decide))
  have hEnd := endedBy_of_receive hAcc hRec (by rw [← hRes', hRes]; decide) hEx
  have hFirst := not_first_of_complete hRec (hRes'.symm.trans hRes) hEnd.last
  refine ⟨hEnd.exec_copy hValid', fun hTimed a rest hAns => ?_⟩
  rw [← hEnd.dropped_regs]
  exact restartAndDrop f _ a rest hEnd.admitted (.inr (.inl hTimed)) hFirst hAns

/-- Settles O40. A rejection without a restart leaves what it reads; behind a restart the frame's interface and transfer
ID are the receiver's, so the restart is repeated only for the start, which it does not write. -/
theorem rejectsAreIdempotent : Obligations.RejectsAreIdempotent := by
  intro f s t u txs again w w' hEx hEm hOk hNoBuffer hWriteFailed hEx' hEm'
  obtain ⟨s1, hOut, rfl⟩ := hEm.frameOutcome hEx
  cases hOut with
  | rejected _ hRej =>
    obtain ⟨rfl, rfl, -⟩ := (FrameOutcome.rejected _ (hRej.answering [w])).emits (List.append_nil _).symm hEx' hEm'
    obtain ⟨hRes, -, hBit⟩ := hRej.word_fields
    exact ⟨hRes, hRes, rfl, rfl, fun _ => ⟨rfl, rfl⟩, fun h => absurd (hBit.symm.trans h) Bool.false_ne_true⟩
  | dropped hAdm hN hFirst =>
    have hDue := staysDue_of_not_first hN hFirst
    obtain ⟨rfl, rfl, hAgain⟩ :=
      (FrameOutcome.copy_of_dropped (admitted_again hAdm hEx) hDue hFirst hEx').emits rfl hEx' hEm'
    exact ⟨by decide, by decide, rfl, rfl, fun h => absurd h (by decide), fun _ => ⟨hEm.eq_of_answering rfl,
      by rw [hAgain, if_pos hDue], fun h => absurd (hFirst.symm.trans h) Bool.false_ne_true⟩⟩
  | restarted d hAdm _ hFirst _ hFail =>
    obtain ⟨hRes, hResBit, hDiag, hDiagBit, -, -, hBit⟩ := hFail.word_fields
    obtain ⟨hAgainDue, hAgainNot⟩ := FrameOutcome.copy_of_restarted (admitted_again hAdm hEx) hFirst hFail hEx'
    have hNotFalse : restartedField ((0x1000 : Word) ||| (d <<< 4) ||| 0x100) ≠ false := by rw [hBit]; decide
    have hCode : d.setWidth 4 = 0x5 ∨ d.setWidth 4 = 0x6 ∨ d.setWidth 4 = 0x7 := by
      rcases hFail.code_of_restarted with rfl | rfl | rfl <;> decide
    rw [← hDiagBit] at hCode
    by_cases hDue : StaysDue s f
    · obtain ⟨rfl, rfl, hAgain⟩ := (hAgainDue hDue).emits rfl hEx' hEm'
      exact ⟨hResBit, hResBit, rfl, rfl, fun h => absurd h hNotFalse,
        fun _ => ⟨hEm.eq_of_answering rfl, by rw [hAgain, if_pos hDue], fun _ => hCode⟩⟩
    · obtain ⟨rfl, rfl, hAgain⟩ := (hAgainNot hDue).emits (List.append_nil _).symm hEx' hEm'
      exact ⟨hResBit, hRes, hDiag.trans hDiagBit.symm, rfl, fun h => absurd h hNotFalse,
        fun _ => ⟨hEm.eq_of_answering rfl, by rw [hAgain, if_neg hDue], fun _ => hCode⟩⟩
  | received res v _ _ hRec =>
    obtain ⟨-, hW, -⟩ := receive_effect hRec
    rw [diagField_addFrameStatus] at hOk hNoBuffer hWriteFailed
    rcases hW.diag_cases with rfl | rfl | rfl
    · exact absurd rfl hOk
    · exact absurd rfl hNoBuffer
    · exact absurd rfl hWriteFailed

end

section
/-! The host commands NOP and RESET (spec/43_host_commands.md R180, R183), and which commands write at all (R184). -/

namespace Sys2Proof.Machine

variable {s t : State} {r : BitVec 28}

/-- An ILLEGAL command other than READ_REG is answered with its status word alone (spec/60_exceptions.md R201). -/
theorem State.raiseIllegal_of_ne_readReg {op : BitVec 4} (h : op ≠ opReadReg) (s : State) :
    s.raiseIllegal op = s.answering [BitVec.ofNat 32 (0xB8 + op.toNat * 2 ^ 12)] := by
  rw [State.raiseIllegal_eq_answering, illegalStatus_word, illegalData_of_ne h]

/-- NOP without reserved bits answers OK (R180). -/
theorem exec_nop_zero (s : State) : exec (.nop 0) s = .next (s.answering [0x00000000]) := rfl

/-- NOP with a reserved bit set is ILLEGAL (R180). -/
theorem exec_nop_of_ne_zero (hr : r ≠ 0) (s : State) : exec (.nop r) s = .next (s.answering [0x000000B8]) := by
  have hIllegal : exec (.nop r) s = .next (s.raiseIllegal opNop) := if_pos hr
  rw [hIllegal, State.raiseIllegal_of_ne_readReg (by decide)]
  rfl

/-- RESET without reserved bits writes the values of R41 and answers OK (R183). -/
theorem exec_reset_zero (s : State) :
    exec (.reset 0) s = .next (State.answering { s with regs := Registers.reset s.config } [0x0000F000]) := rfl

/-- RESET with a reserved bit set is ILLEGAL (R183). -/
theorem exec_reset_of_ne_zero (hr : r ≠ 0) (s : State) : exec (.reset r) s = .next (s.answering [0x0000F0B8]) := by
  have hIllegal : exec (.reset r) s = .next (s.raiseIllegal opReset) := if_pos hr
  rw [hIllegal, State.raiseIllegal_of_ne_readReg (by decide)]
  rfl

/-- The reset start is no start, so any frame restarts the receiver after RESET (spec/42_add_frame.md R154). -/
theorem needRestart_of_exec_reset (h : exec (.reset 0) s = .next t) (f : Frame) : NeedRestart t f := by
  cases (exec_reset_zero s).symm.trans h
  exact .inl rfl

end Sys2Proof.Machine

open Sys2Proof Sys2Proof.Machine

/-- Settles O2. The packet is the encoding of the command, and what RESET writes is the state of R41. -/
theorem resetCommandEffect : Obligations.ResetCommandEffect := by
  refine ⟨fun r rest => decodeOfEncode (.reset r) rest trivial, fun s t f h => needRestart_of_exec_reset h f,
    fun r s => ?_⟩
  by_cases hr : r = 0
  · subst hr
    rw [if_pos rfl]
    exact exec_reset_zero s
  · rw [if_neg hr]
    exact exec_reset_of_ne_zero hr s

/-- Settles O3. The packet is the encoding of the command. -/
theorem nopAnswersAndChangesNothing : Obligations.NopAnswersAndChangesNothing := by
  refine ⟨fun r rest => decodeOfEncode (.nop r) rest trivial, fun r s => ?_⟩
  by_cases hr : r = 0
  · subst hr
    rw [if_pos rfl]
    exact exec_nop_zero s
  · rw [if_neg hr]
    exact exec_nop_of_ne_zero hr s

/-- Settles O9: of the things a command can do, only RESET and the intake of an ADD_FRAME are more than an answer. -/
theorem onlyAddFrameAndResetWrite : Obligations.OnlyAddFrameAndResetWrite := by
  intro i s t hFrame hReset h
  rcases exec_cases h with hAnswer | ⟨⟨r, hr⟩, -⟩ | ⟨f, hf, -⟩
  · exact hAnswer
  · exact absurd hr (hReset r)
  · exact absurd hf (hFrame f)

end

section
/-! ADD_FRAME short of answers (spec/60_exceptions.md R202): each operation of the buffer port is stuck exactly where the
answers end before one of its transactions, and ADD_FRAME exactly where its restart is or its Receive is. -/

namespace Sys2Proof.Machine

variable {f : Frame} {s : State} {w : Word}

/-! The operations. -/

/-- Acquisition is stuck on its BufAccess, or on the BufCreate after a BufAccess answered NONE
(spec/41_validation_and_reassembly.md R139). -/
theorem bufAcquire_eq_none :
    s.bufAcquire = none ↔ s.bufAnswers = [] ∨ ∃ a, s.bufAnswers = [a] ∧ a.presence = .absent := by
  unfold State.bufAcquire
  cases hA : s.bufAccess with
  | none => simp [bufAccess_eq_none.mp hA]
  | some r =>
    obtain ⟨p, s1⟩ := r
    obtain ⟨a, rest, hAns, rfl, rfl⟩ := bufAccess_eq_some.mp hA
    cases hp : a.presence with
    | present => simp [hAns, hp]
    | absent => simp [hAns, hp, bufCreate_eq_none]

/-- WritePayload is stuck on its BufWrite (R131). -/
theorem writePayload_eq_none : writePayload f s = none ↔ s.bufAnswers = [] := by
  cases hAns : s.bufAnswers with
  | nil =>
    have hW := bufWrite_eq_none (s := { s with regs := captureCrc f s.regs }) (offset := s.regs.bufferWritePos)
      (bytes := payloadSlice f) |>.mpr hAns
    simp only [writePayload, captureCrc_bufferWritePos, hW]
  | cons a rest => simp [writePayload_eq_some.mpr ⟨a, rest, hAns, rfl, rfl⟩]

/-- The write-failure abort is stuck on its BufRemove (R140). -/
theorem abortWrite_eq_none : abortWrite s = none ↔ s.bufAnswers = [] := by
  unfold abortWrite
  rw [← bufRemove_eq_none]
  cases s.bufRemove <;> simp

/-- The single-frame path is stuck on its BufRemove (R138). -/
theorem receiveSingleFrame_eq_none : receiveSingleFrame s = none ↔ s.bufAnswers = [] := by
  unfold receiveSingleFrame
  rw [← bufRemove_eq_none]
  cases s.bufRemove <;> simp

/-- The multi-frame path is stuck on its acquisition, on the BufWrite in the acquired buffer, or on the BufRemove after a
failed write (R139, R140). -/
theorem receiveMultiFrame_eq_none :
    receiveMultiFrame f s = none ↔ (s.bufAnswers = [] ∨ ∃ a, s.bufAnswers = [a] ∧ a.presence = .absent) ∨
      (∃ evs bytes, Acquires s evs bytes []) ∨
      ∃ evs bytes w, Acquires s evs bytes [w] ∧ w.written.toInt ≠ ((writtenBytes f).length : Int) := by
  rw [← bufAcquire_eq_none]
  constructor
  · intro h
    unfold receiveMultiFrame at h
    split at h
    · next hA => exact .inl hA
    · cases h
    · next s1 hA =>
      obtain ⟨evs, bytes, rest, hAcq, rfl⟩ := bufAcquire_present.mp hA
      split at h
      · next hW =>
        obtain rfl : rest = [] := writePayload_eq_none.mp hW
        exact .inr (.inl ⟨evs, bytes, hAcq⟩)
      · next s2 hW =>
        obtain ⟨w, rest', hAns, hFail, rfl⟩ := writePayload_eq_some.mp hW
        obtain rfl : rest' = [] := abortWrite_eq_none.mp h
        obtain rfl : rest = [w] := hAns
        exact .inr (.inr ⟨evs, bytes, w, hAcq, mt writeSucceeds_iff.mpr (Bool.eq_false_iff.mp hFail.symm)⟩)
      · cases h
  · rintro (hA | ⟨evs, bytes, hAcq⟩ | ⟨evs, bytes, w, hAcq, hFail⟩)
    · simp only [receiveMultiFrame, hA]
    · have hA := bufAcquire_present.mpr ⟨evs, bytes, _, hAcq, rfl⟩
      have hW := (writePayload_eq_none (f := f) (s := acquiredState s evs bytes [])).mpr rfl
      simp only [receiveMultiFrame, hA, hW]
    · have hA := bufAcquire_present.mpr ⟨evs, bytes, _, hAcq, rfl⟩
      have hW := (writePayload_eq_some (f := f) (s := acquiredState s evs bytes [w])).mpr
        ⟨w, [], rfl, (Bool.eq_false_iff.mpr (mt writeSucceeds_iff.mp hFail)).symm, rfl⟩
      simp only [receiveMultiFrame, hA, hW]
      exact abortWrite_eq_none.mpr rfl

/-- The places where Receive finds no answer: its first transaction, whichever that is; and on the multi-frame path a
BufCreate, a BufWrite, and the BufRemove after a failed write (spec/42_add_frame.md R161). -/
inductive ReceiveStuck (f : Frame) (s : State) : Prop where
  | first : s.bufAnswers = [] → ReceiveStuck f s
  | create (a : BufAnswer) : ¬(f.isFirstFrame = true ∧ f.isLastFrame = true) →
      s.bufAnswers = [a] → a.presence = .absent → ReceiveStuck f s
  | write (evs : List PortEvent) (bytes : Memory) : ¬(f.isFirstFrame = true ∧ f.isLastFrame = true) →
      Acquires s evs bytes [] → ReceiveStuck f s
  | remove (evs : List PortEvent) (bytes : Memory) (w : BufAnswer) :
      ¬(f.isFirstFrame = true ∧ f.isLastFrame = true) → Acquires s evs bytes [w] →
      w.written.toInt ≠ ((writtenBytes f).length : Int) → ReceiveStuck f s

theorem receive_eq_none : receive f s = none ↔ ReceiveStuck f s := by
  rw [receive_eq]
  split
  · next hSingle =>
    refine receiveSingleFrame_eq_none.trans ⟨fun hAns => .first hAns, fun h => ?_⟩
    cases h with
    | first hAns => exact hAns
    | create _ hMulti | write _ _ hMulti | remove _ _ _ hMulti => exact absurd hSingle hMulti
  · next hMulti =>
    refine receiveMultiFrame_eq_none.trans ⟨?_, fun h => ?_⟩
    · rintro ((hAns | ⟨a, hAns, ha⟩) | ⟨evs, bytes, hAcq⟩ | ⟨evs, bytes, w, hAcq, hFail⟩)
      · exact .first hAns
      · exact .create a hMulti hAns ha
      · exact .write evs bytes hMulti hAcq
      · exact .remove evs bytes w hMulti hAcq hFail
    · cases h with
      | first hAns => exact .inl (.inl hAns)
      | create a _ hAns ha => exact .inl (.inr ⟨a, hAns, ha⟩)
      | write evs bytes _ hAcq => exact .inr (.inl ⟨evs, bytes, hAcq⟩)
      | remove evs bytes w _ hAcq hFail => exact .inr (.inr ⟨evs, bytes, w, hAcq, hFail⟩)

/-! The whole command. -/

/-- A frame is validated, or one check is the first that it fails (R125). -/
theorem validated_or_failsWith (s : State) (f : Frame) : Validated s f ∨ ∃ d, FailsWith s f d := by
  cases hV : validate s.config s.regs f with
  | valid => exact .inl (validate_eq_valid.mp hV)
  | invalid d => exact .inr ⟨_, validate_eq_invalid hV⟩

/-- A frame that is not admitted is rejected as the registers stand (spec/42_add_frame.md R151). -/
theorem exists_rejectedAsIs_of_not_admitted (h : ¬Admitted s f) : ∃ w, RejectedAsIs s f w := by
  by_cases hRange : f.InRange s.config
  · by_cases hZero : f.monotonicTimestamp = 0
    · exact ⟨_, .tsZero hRange hZero⟩
    · exact ⟨_, .tsStale hRange hZero h⟩
  · exact ⟨_, .illegal hRange⟩

/-- The places where an admitted frame leaves ADD_FRAME stuck: the BufRemove of its restart, or in Receive. -/
inductive FrameStuck (s : State) (f : Frame) : Prop where
  | restart : Admitted s f → NeedRestart s f → s.bufAnswers = [] → FrameStuck s f
  | receive : Accepted s f → ReceiveStuck f (intakeState s f) → FrameStuck s f

/-- Where the frame is stuck it has no outcome. -/
theorem FrameStuck.not_frameOutcome {s1 : State} (h : FrameStuck s f) : ¬FrameOutcome s f w s1 := by
  intro hOut
  cases h with
  | restart hAdm hN hNil =>
    cases hOut with
    | rejected _ hRej =>
      obtain ⟨hNot, -⟩ := hRej.of_admitted hAdm
      exact hNot hN
    | dropped _ _ _ hAns | restarted _ _ _ _ hAns => exact hAns hNil
    | received _ _ _ hAcc =>
      obtain ⟨⟨-, hRestart⟩, -⟩ := hAcc
      obtain ⟨-, hAns⟩ := hRestart hN
      exact hAns hNil
  | receive hAcc hStuck =>
    obtain ⟨⟨hAdm, hRestart⟩, hVal⟩ := hAcc
    cases hOut with
    | rejected _ hRej =>
      obtain ⟨hN, d, hFail, -⟩ := hRej.of_admitted hAdm
      exact hFail.not_validated (by rwa [intakeState_of_not_restart hN] at hVal)
    | dropped _ hN hFirst => exact Bool.false_ne_true (hFirst.symm.trans (hRestart hN).1)
    | restarted _ _ hN _ _ hFail => exact hFail.not_validated (by rwa [intakeState_of_restart hN] at hVal)
    | received _ _ _ _ hRec => cases (receive_eq_none.mpr hStuck).symm.trans hRec

/-- A frame that is not stuck has an outcome. -/
theorem exists_frameOutcome_of_not_frameStuck (h : ¬FrameStuck s f) : ∃ w s1, FrameOutcome s f w s1 := by
  by_cases hAdm : Admitted s f
  · have hAns : NeedRestart s f → s.bufAnswers ≠ [] := fun hN hNil => h (.restart hAdm hN hNil)
    by_cases hDrop : NeedRestart s f ∧ f.isFirstFrame = false
    · obtain ⟨hN, hFirst⟩ := hDrop
      exact ⟨_, _, .dropped hAdm hN hFirst (hAns hN)⟩
    · have hReach : ReachesValidate s f :=
        ⟨hAdm, fun hN => ⟨Bool.of_not_eq_false fun hFirst => hDrop ⟨hN, hFirst⟩, hAns hN⟩⟩
      rcases validated_or_failsWith (intakeState s f) f with hVal | ⟨d, hFail⟩
      · cases hRec : Machine.receive f (intakeState s f) with
        | none => exact absurd (.receive ⟨hReach, hVal⟩ (receive_eq_none.mp hRec)) h
        | some r => obtain ⟨res, d, s1⟩ := r; exact ⟨_, _, .received res d s1 ⟨hReach, hVal⟩ hRec⟩
      · exact ⟨_, _, .of_failsWith hReach hFail⟩
  · obtain ⟨w, hRej⟩ := exists_rejectedAsIs_of_not_admitted hAdm
    exact ⟨w, s, .rejected w hRej⟩

/-- ADD_FRAME faults at these places and at no other. -/
theorem exec_addFrame_eq_fault : exec (.addFrame f) s = .fault .bufferUnanswered ↔ FrameStuck s f := by
  constructor
  · intro hFault
    by_contra hNot
    obtain ⟨w, s1, hOut⟩ := exists_frameOutcome_of_not_frameStuck hNot
    cases hFault.symm.trans hOut.exec_eq
  · intro hStuck
    refine (exec_next_or_fault _ s).resolve_left ?_
    rintro ⟨t, hEx⟩
    obtain ⟨w, s1, hOut, -⟩ := exec_addFrame_eq_next.mp hEx
    exact hStuck.not_frameOutcome hOut

end Sys2Proof.Machine

open Sys2Proof Sys2Proof.Machine

/-- Settles O26, place by place. -/
theorem unansweredTransactionIsStuck : Obligations.UnansweredTransactionIsStuck := by
  rintro f s s1 rfl
  refine ⟨fun hAdm hN hNil => exec_addFrame_eq_fault.mpr (.restart hAdm hN hNil),
    fun hAcc hNil => exec_addFrame_eq_fault.mpr (.receive hAcc (.first hNil)),
    fun hAcc hMulti => ⟨fun a hAns ha => ?_, fun evs bytes hAcq => ?_, fun evs bytes w hAcq hFail => ?_⟩⟩
  · exact exec_addFrame_eq_fault.mpr (.receive hAcc (.create a hMulti hAns ha))
  · exact exec_addFrame_eq_fault.mpr (.receive hAcc (.write evs bytes hMulti hAcq))
  · exact exec_addFrame_eq_fault.mpr (.receive hAcc (.remove evs bytes w hMulti hAcq hFail))

end

section
/-! Every command runs to its one response (spec/60_exceptions.md R200, R205). Each transaction takes one answer and is
logged, so the events logged and the answers left keep their sum until the response; and no row of the table of
spec/42_add_frame.md R161 has more than five transactions. -/

namespace Sys2Proof.Machine

variable {f : Frame} {i : Instr} {s s1 t : State} {evs txs : List PortEvent} {bytes : Memory} {rest : List BufAnswer}
  {res : ResultCode} {d : Diag} {w : Word}

/-! The count of answers. -/

/-- The events logged and the answers left. -/
def State.traffic (s : State) : Nat := s.portLog.length + s.bufAnswers.length

theorem State.answering_traffic (s : State) (ws : List Word) : (s.answering ws).traffic = s.traffic + 1 := by
  simp only [State.traffic, State.answering_portLog, State.answering_bufAnswers, List.length_append,
    List.length_singleton]
  omega

theorem Acquires.length (h : Acquires s evs bytes rest) : s.bufAnswers.length = evs.length + rest.length := by
  rcases h with ⟨_, hAns, -, rfl, -⟩ | ⟨_, _, hAns, -, -, rfl, -⟩
  · rw [hAns, List.length_cons, List.length_singleton, Nat.add_comm]
  · rw [hAns, List.length_cons, List.length_cons, List.length_cons, List.length_singleton]; omega

/-- Progress and completion take no answer (spec/41_validation_and_reassembly.md R141 to R143). -/
theorem takeFrame_traffic (h : (res, d, t) = takeFrame f s) : t.traffic = s.traffic := by
  unfold takeFrame at h
  split at h <;> cases h <;> rfl

theorem receiveMultiFrame_traffic (h : receiveMultiFrame f s = some (res, d, t)) : t.traffic = s.traffic := by
  rcases receiveMultiFrame_eq_some.mp h with ⟨_, _, _, hAns, -, -, -, -, rfl⟩ |
    ⟨evs, _, w, a, rest, hAcq, -, -, -, rfl⟩ | ⟨evs, _, w, rest, hAcq, -, hTake⟩
  · simp [State.traffic, hAns]; omega
  · simp [State.traffic, wroteState, hAcq.length]; omega
  · rw [takeFrame_traffic hTake]
    simp [State.traffic, wroteState, hAcq.length]; omega

theorem receive_traffic (h : receive f s = some (res, d, t)) : t.traffic = s.traffic := by
  rw [receive_eq] at h
  split at h
  · obtain ⟨_, _, hAns, -, -, rfl⟩ := receiveSingleFrame_eq_some.mp h
    change s.bufAnswers = _ at hAns
    simp [State.traffic, hAns]; omega
  · exact (receiveMultiFrame_traffic h).trans rfl

/-- The BufRemove of a restart takes one answer (spec/42_add_frame.md R156). -/
theorem restartedState_traffic (hAns : s.bufAnswers ≠ []) (f : Frame) : (restartedState s f).traffic = s.traffic := by
  have hPos := List.length_pos_iff.mpr hAns
  simp [State.traffic]; omega

theorem intakeState_traffic (hAns : NeedRestart s f → s.bufAnswers ≠ []) : (intakeState s f).traffic = s.traffic := by
  by_cases hN : NeedRestart s f
  · rw [intakeState_of_restart hN, restartedState_traffic (hAns hN)]
  · rw [intakeState_of_not_restart hN]

theorem FrameOutcome.traffic (h : FrameOutcome s f w s1) : s1.traffic = s.traffic := by
  cases h with
  | rejected => rfl
  | dropped _ _ _ hAns => exact restartedState_traffic hAns f
  | restarted _ _ _ _ hAns => exact restartedState_traffic hAns f
  | received _ _ _ hAcc hRec =>
    obtain ⟨⟨-, hRestart⟩, -⟩ := hAcc
    rw [receive_traffic hRec, intakeState_traffic fun hN => (hRestart hN).2]

/-- A command's events are its transactions, one for each answer taken, and its response. -/
theorem exec_traffic (h : exec i s = .next t) : t.traffic = s.traffic + 1 := by
  rcases exec_cases h with ⟨ws, rfl⟩ | ⟨-, ws, rfl⟩ | ⟨f, rfl, -⟩
  · exact State.answering_traffic s ws
  · exact State.answering_traffic _ ws
  · obtain ⟨w, s1, hOut, rfl⟩ := exec_addFrame_eq_next.mp h
    rw [State.answering_traffic, hOut.traffic]

/-- What a command emitted tells how many answers it took. -/
theorem Emitted.length_add {data : List Word} (h : Emitted s t txs w data) (hEx : exec i s = .next t) :
    txs.length + t.bufAnswers.length = s.bufAnswers.length := by
  obtain ⟨hLog, -⟩ := h
  have hTraffic := exec_traffic hEx
  simp only [State.traffic, hLog, List.length_append, List.length_singleton] at hTraffic
  omega

/-! The response. -/

/-- The OP field of a status word (spec/30_encoding.md R80). -/
theorem Status.word_op (st : Status) : st.word.extractLsb' 12 4 = st.op := by
  unfold Status.word
  rw [extractLsb'_append_above _ _ _ (by decide), extractLsb'_append_above _ _ _ (by decide),
    extractLsb'_append_above _ _ _ (by decide), extractLsb'_append_above _ _ _ (by decide),
    extractLsb'_append_above _ _ _ (by decide), extractLsb'_append_above _ _ _ (by decide)]
  exact BitVec.extractLsb'_append_eq_right

/-- From `s` to `t` the transactions `txs` were issued and then one response given, under `op`. -/
def AnswersOp (op : BitVec 4) (s t : State) (txs : List PortEvent) : Prop :=
  ∃ s1 st data, Transacts s s1 txs ∧ st.op = op ∧ t = s1.respond st data

theorem AnswersOp.respond (s : State) (st : Status) (data : List Word) : AnswersOp st.op s (s.respond st data) [] :=
  ⟨s, st, data, .refl s, rfl, rfl⟩

theorem AnswersOp.raiseIllegal (s : State) (op : BitVec 4) : AnswersOp op s (s.raiseIllegal op) [] :=
  .respond s (illegalStatus op) (illegalData op)

theorem AnswersOp.emitted {op : BitVec 4} (h : AnswersOp op s t txs) :
    t.hostIn = s.hostIn ∧ ∃ w data, Emitted s t txs w data ∧ w.extractLsb' 12 4 = op := by
  obtain ⟨s1, st, data, ⟨hHost, hLog, hTxs⟩, rfl, rfl⟩ := h
  exact ⟨hHost, st.word, data, ⟨by rw [State.respond_portLog, hLog], hTxs⟩, st.word_op⟩

/-- A command answers ILLEGAL to reserved bits, before anything else (spec/30_encoding.md R86). -/
theorem AnswersOp.of_illegal_or {op : BitVec 4} {p : Prop} [Decidable p] {o : Host.Outcome State Fault Refusal}
    (h : (if p then .next (s.raiseIllegal op) else o) = .next t) (hElse : o = .next t → AnswersOp op s t []) :
    AnswersOp op s t [] := by
  split at h
  · cases h; exact .raiseIllegal s op
  · exact hElse h

/-- READ_REG answers a register of the map, or ILLEGAL (spec/43_host_commands.md R181). -/
theorem execReadReg_answersOp {r : BitVec 20} {reg : BitVec 8} (h : execReadReg r reg s = .next t) :
    AnswersOp opReadReg s t [] := by
  refine .of_illegal_or h fun hRead => ?_
  split at hRead <;> cases hRead
  · exact .raiseIllegal s opReadReg
  · exact .respond s { op := opReadReg } _

/-- Every command answers under its own OP, and only ADD_FRAME issues transactions before that (R200). -/
theorem exec_answersOp (h : exec i s = .next t) :
    ∃ txs, AnswersOp i.op s t txs ∧ ((∀ f, i ≠ .addFrame f) → txs = []) := by
  cases i with
  | nop r =>
    exact ⟨[], .of_illegal_or h fun hOk => by cases hOk; exact .respond s { op := opNop } [], fun _ => rfl⟩
  | addFrame f =>
    rcases execAddFrame_answers h with ⟨-, rfl⟩ | ⟨s1, txs, res, d, b, hTxs, -, rfl⟩
    · exact ⟨[], .raiseIllegal s opAddFrame, fun _ => rfl⟩
    · exact ⟨txs, ⟨s1, addFrameStatus res d b, [], hTxs, rfl, rfl⟩, fun hNot => absurd rfl (hNot f)⟩
  | checkTimeout r ts =>
    exact ⟨[], .of_illegal_or h fun hOk => by cases hOk; exact .respond s { op := opCheckTimeout, timedOut := _ } [],
      fun _ => rfl⟩
  | readReg r reg => exact ⟨[], execReadReg_answersOp h, fun _ => rfl⟩
  | reset r =>
    exact ⟨[], .of_illegal_or h fun hOk => by
      cases hOk; exact ⟨_, { op := opReset }, [], .withRegs s (resetRegisters s.config), rfl, rfl⟩, fun _ => rfl⟩

/-! Progress. -/

theorem RestartRow.length_le {need : Prop} {bit : Word} (h : RestartRow need txs bit) : txs.length ≤ 1 := by
  cases h <;> decide

theorem AcquireRow.length_le (h : AcquireRow txs) : txs.length ≤ 2 := by
  cases h <;> decide

/-- No row of the table has more than five transactions: BufRemove, BufAccess, BufCreate, BufWrite, BufRemove (R161). -/
theorem PathRow.length_le (h : PathRow s f txs w) : txs.length ≤ maxTransactions := by
  unfold maxTransactions
  cases h with
  | illegal | tsZero | tsStale | restartDrop => simp
  | invalid _ _ _ _ hRm => exact hRm.length_le.trans (by decide)
  | singleFrame _ _ _ hRm => have hRm := hRm.length_le; simp; omega
  | noBuffer _ _ _ hRm => have hRm := hRm.length_le; simp; omega
  | writeFailed _ _ _ _ _ hRm hAcq | taken _ _ _ _ _ hRm hAcq =>
    have hRm := hRm.length_le
    have hAcq := hAcq.length_le
    simp; omega

theorem ReceiveStuck.length_le (h : ReceiveStuck f s) : s.bufAnswers.length ≤ 3 := by
  cases h with
  | first hAns => simp [hAns]
  | create a _ hAns => simp [hAns]
  | write evs bytes _ hAcq | remove evs bytes w _ hAcq =>
    have hLe := hAcq.acquireRow.length_le
    rw [hAcq.length]
    simp; omega

theorem length_le_intakeState (s : State) (f : Frame) :
    s.bufAnswers.length ≤ (intakeState s f).bufAnswers.length + 1 := by
  unfold intakeState
  split
  · simp; omega
  · exact Nat.le_succ _

theorem FrameStuck.admitted (h : FrameStuck s f) : Admitted s f := by
  cases h with
  | restart hAdm => exact hAdm
  | receive hAcc => exact admitted_of_accepted hAcc

/-- A restart takes one answer and Receive has found at most three. -/
theorem FrameStuck.length_lt (h : FrameStuck s f) : s.bufAnswers.length < maxTransactions := by
  unfold maxTransactions
  cases h with
  | restart _ _ hNil => simp [hNil]
  | receive _ hStuck =>
    have hLe := hStuck.length_le
    have hIntake := length_le_intakeState s f
    omega

/-- Only ADD_FRAME faults, and only where it is stuck (spec/60_exceptions.md R202). -/
theorem exec_eq_fault {r : Fault} (h : exec i s = .fault r) : ∃ f, i = .addFrame f ∧ FrameStuck s f := by
  cases i with
  | nop r => obtain ⟨ws, hWs⟩ := execNop_answers r; cases (hWs s).symm.trans h
  | addFrame f => cases r; exact ⟨f, rfl, exec_addFrame_eq_fault.mp h⟩
  | checkTimeout r ts => obtain ⟨ws, hWs⟩ := execCheckTimeout_answers r ts; cases (hWs s).symm.trans h
  | readReg r reg => obtain ⟨ws, hWs⟩ := execReadReg_answers r reg s; cases hWs.symm.trans h
  | reset r =>
    obtain ⟨ws, hWs | hWs⟩ := execReset_cases r
    · cases (hWs s).symm.trans h
    · cases (hWs s).symm.trans h

/-- With five answers left every command has a next state (R205). -/
theorem exists_exec_eq_next (i : Instr) (hAns : maxTransactions ≤ s.bufAnswers.length) : ∃ t, exec i s = .next t := by
  refine (exec_next_or_fault i s).resolve_right fun hFault => ?_
  obtain ⟨f, -, hStuck⟩ := exec_eq_fault hFault
  exact hStuck.length_lt.not_ge hAns

/-- A command takes at most five answers (R161). -/
theorem exec_bufAnswers_length_le (h : exec i s = .next t) :
    s.bufAnswers.length ≤ t.bufAnswers.length + maxTransactions := by
  rcases exec_cases h with ⟨ws, rfl⟩ | ⟨-, ws, rfl⟩ | ⟨f, rfl, -⟩
  · exact Nat.le_add_right _ _
  · exact Nat.le_add_right _ _
  · obtain ⟨txs, w, hEmit, hRow⟩ := addFrameTransactionTable f s t h
    have hCount := hEmit.length_add h
    have hLe := hRow.length_le
    omega

end Sys2Proof.Machine

open Sys2Proof Sys2Proof.Machine

/-- Settles O27: the places where ADD_FRAME is stuck bound the answers of a fault, and the log counts those that a next
state took. -/
theorem everyCommandRunsToItsResponse : Obligations.EveryCommandRunsToItsResponse := by
  refine fun i s => ⟨exists_exec_eq_next i, fun r hFault => ?_, fun r hRefused => ?_, fun t hEx => ?_⟩
  · obtain ⟨f, rfl, hStuck⟩ := exec_eq_fault hFault
    exact ⟨f, rfl, hStuck.admitted, hStuck.length_lt⟩
  · rcases exec_next_or_fault i s with ⟨t, hEx⟩ | hFault
    · cases hRefused.symm.trans hEx
    · cases hRefused.symm.trans hFault
  · obtain ⟨txs, hAnswers, hNone⟩ := exec_answersOp hEx
    obtain ⟨hHost, w, data, hEmit, hOp⟩ := hAnswers.emitted
    exact ⟨hHost, exec_config hEx, txs, w, data, hEmit, hOp, hEmit.length_add hEx, hNone⟩

end

section
/-! Steps: the block idle (spec/60_exceptions.md R211), and runs that go on while the collaborator answers (R205). -/

namespace Sys2Proof.Machine

variable {s : State}

/-- With no whole packet presented a step holds the state (spec/60_exceptions.md R211). -/
theorem step_of_no_packet (hc : s.config.Valid)
    (h : decode s.hostIn = .error .noHeader ∨ ∃ n m, decode s.hostIn = .error (.incomplete n m)) : step s = .next s :=
  step_eq_next.mpr ⟨hc, .inl ⟨rfl, h⟩⟩

/-- With five answers left a step goes on, and takes at most five (R205). -/
theorem exists_step_eq_next (hc : s.config.Valid) (hAns : maxTransactions ≤ s.bufAnswers.length) :
    ∃ t, step s = .next t ∧ s.bufAnswers.length ≤ t.bufAnswers.length + maxTransactions := by
  cases hDecode : decode s.hostIn with
  | ok p =>
    obtain ⟨i, rest⟩ := p
    obtain ⟨t, hEx⟩ := exists_exec_eq_next (s := { s with hostIn := rest }) i hAns
    exact ⟨t, (step_of_decode_ok hc hDecode).trans hEx,
      exec_bufAnswers_length_le (s := { s with hostIn := rest }) hEx⟩
  | error e =>
    cases e with
    | noHeader => exact ⟨s, step_of_no_packet hc (.inl hDecode), Nat.le_add_right _ _⟩
    | incomplete n m => exact ⟨s, step_of_no_packet hc (.inr ⟨n, m, hDecode⟩), Nat.le_add_right _ _⟩
    | reservedOp op => exact ⟨_, step_of_decode_reserved hc hDecode, Nat.le_add_right _ _⟩

end Sys2Proof.Machine

open Sys2Proof Sys2Proof.Machine

/-- Settles O11: the decoder finds no header, or a packet that is not whole. -/
theorem noPacketHoldsTheState : Obligations.NoPacketHoldsTheState := by
  rintro s hc (hNil | ⟨header, rest, hIn, hShort⟩)
  · exact step_of_no_packet hc (.inl (by rw [hNil]; rfl))
  · exact step_of_no_packet hc (.inr ⟨_, _, by rw [hIn, decode, if_pos hShort]⟩)

/-- Settles O45, by induction on the steps: the first takes at most five answers and keeps the invariant, so five are
left for each of the others. -/
theorem runsGoOnWhileAnswered : Obligations.RunsGoOnWhileAnswered := by
  intro n
  induction n with
  | zero => exact fun s hInv _ => ⟨s, run_zero core s, hInv⟩
  | succ n ih =>
    intro s hInv hAns
    have ⟨hc, _⟩ := hInv
    rw [Nat.mul_succ] at hAns
    obtain ⟨t, hStep, hLeft⟩ := exists_step_eq_next hc ((Nat.le_add_left _ _).trans hAns)
    rw [run_succ core n hStep]
    exact ih t (everyStepKeepsTheInvariant s t hInv hStep) (Nat.le_of_add_le_add_right (hAns.trans hLeft))

end

section
/-! What power-on reset and RESET leave (spec/70_reset_and_hazards.md R220), and what a completed transfer leaves
(R225). -/

namespace Sys2Proof.Machine

variable {c : Config} {f : Frame} {s t : State} {r r' : Registers} {res : ResultCode} {v : Diag}

/-- A single-frame transfer leaves no CRC (spec/41_validation_and_reassembly.md R138). -/
theorem ReceiveWrites.thisTransferCrc_of_single (h : ReceiveWrites c f r res v r') (hRes : res.code = 2) :
    r'.thisTransferCrc = 0 := by
  cases h with
  | singleFrame => rfl
  | _ => exact absurd hRes (by decide)

/-- A frame that is not first leaves the CRC and the UTC timestamp of its transfer: it captures neither (R131, R137),
and it is accepted only where no restart clears the CRC (spec/42_add_frame.md R157). -/
theorem transferFields_kept_of_not_first (hAcc : Accepted s f) (hFirst : f.isFirstFrame = false)
    (hRec : receive f (intakeState s f) = some (res, v, t)) :
    t.regs.thisTransferCrc = s.regs.thisTransferCrc ∧ t.regs.firstFrameUtcTs = s.regs.firstFrameUtcTs := by
  have hNotFirst : ¬f.isFirstFrame = true := Bool.eq_false_iff.mp hFirst
  obtain ⟨hReach, -⟩ := hAcc
  obtain ⟨-, hW, -⟩ := receive_effect hRec
  rw [intakeState_of_not_restart (not_needRestart_of_not_first hReach hFirst)] at hW
  exact ⟨hW.thisTransferCrc_cases.resolve_right hNotFirst, hW.firstFrameUtcTs_eq.trans (if_neg hNotFirst)⟩

end Sys2Proof.Machine

open Sys2Proof Sys2Proof.Machine

/-- Settles O1: RESET writes the values that power-on reset gives. -/
theorem resetLeavesTheResetValues : Obligations.ResetLeavesTheResetValues :=
  fun s => ⟨rfl, _, exec_reset_zero s, rfl⟩

/-- Settles O37: the result shows that Receive completed a transfer. Validate found the frame's interface and transfer
ID to be the receiver's, and COMPLETE comes from a frame that is not first. -/
theorem completionLeavesTheTransfersRegisters : Obligations.CompletionLeavesTheTransfersRegisters := by
  intro f s t txs w hEx hEm hResult
  have hc := exec_config hEx
  obtain ⟨s1, hOut, rfl⟩ := hEm.frameOutcome hEx
  obtain ⟨res, v, hAcc, hRec, hRes, -⟩ := hOut.received_of_word (.inr hResult)
  obtain ⟨-, hW, -⟩ := receive_effect hRec
  have hEnd := endedBy_of_receive hAcc hRec (hRes ▸ hResult) hEx
  refine ⟨?_, hEnd.ifaceIndex.symm, hEnd.nextFrameIndex, hEnd.bufferWritePos, fun hFirst => ?_, fun hSingle => ?_,
    fun hComplete => ?_⟩
  · rw [hEnd.tid, hc]
    exact BitVec.toNat_ofNat _ _
  · exact hW.firstFrameUtcTs_eq.trans (if_pos hFirst)
  · exact hW.thisTransferCrc_of_single (hRes.symm.trans hSingle)
  · have hNotFirst := not_first_of_complete hRec (hRes.symm.trans hComplete) hEnd.last
    exact transferFields_kept_of_not_first (t := s1) hAcc hNotFirst hRec

end

section
/-! The configuration a step asks for before it takes a command (spec/93_implementation_defined.md section 1). -/

open Sys2Proof Sys2Proof.Machine

/-- Settles O12: the guard of `step` comes before the fetch, so its other branch answers whatever stands on the host
port. -/
theorem badConfigurationIsRefused : Obligations.BadConfigurationIsRefused := by
  intro s hInvalid
  rw [step, if_neg hInvalid]

end
